-- ==== Sys2Proof/Word.lean ====
section
/-! DEFINITION. The bit widths of the machine: the nibble, the byte, the 12-bit address and the 16-bit word
(00_scope.md R7, 30_encoding.md R81 and R82). Every value is unsigned. -/

namespace Sys2Proof

/-- A 4-bit field: the class, X, Y or N of an instruction word, and a key index (R81, R38). -/
abbrev Nibble := BitVec 4

/-- An 8-bit value: a general register, a timer, a byte of memory, the immediate NN (R20, R60, R82). -/
abbrev Byte := BitVec 8

/-- The 12-bit immediate NNN (R82). -/
abbrev Addr := BitVec 12

/-- A 16-bit value: an instruction word, pc, I, a stack entry (R23, R24, R27, R80). -/
abbrev Word := BitVec 16

end Sys2Proof
end

