-- ==== Sys2Proof/Syntax.lean ====
section
/-! DEFINITION. The instruction set: one constructor per row of spec/opcode_table.json, in the table's order
(30_encoding.md R84). Every nibble and immediate of the word that the row's mask does not fix is an operand. A nibble
the row ignores (X of class 0, N of classes 5 and 9, R83) or does not read (Y of 8XY6 and 8XYE) is kept too, so that
the word can be rebuilt for the fault record of 60_exceptions.md R232; no meaning reads it. -/

namespace Sys2Proof

inductive Instr where
  /-- `0_E0` CLS (R120); the X nibble is ignored. -/
  | cls (x : Nibble)
  /-- `0_EE` RET (R141); the X nibble is ignored. -/
  | ret (x : Nibble)
  /-- `1NNN` JP addr (R142). -/
  | jp (nnn : Addr)
  /-- `2NNN` CALL addr (R143). -/
  | call (nnn : Addr)
  /-- `3XNN` SE Vx, byte (R144). -/
  | seImm (x : Nibble) (nn : Byte)
  /-- `4XNN` SNE Vx, byte (R145). -/
  | sneImm (x : Nibble) (nn : Byte)
  /-- `5XY_` SE Vx, Vy (R146); the N nibble is ignored. -/
  | seReg (x y n : Nibble)
  /-- `6XNN` LD Vx, byte (R160). -/
  | ldImm (x : Nibble) (nn : Byte)
  /-- `7XNN` ADD Vx, byte (R161). -/
  | addImm (x : Nibble) (nn : Byte)
  /-- `8XY0` LD Vx, Vy (R162). -/
  | ldReg (x y : Nibble)
  /-- `8XY1` OR Vx, Vy (R163). -/
  | or (x y : Nibble)
  /-- `8XY2` AND Vx, Vy (R164). -/
  | and (x y : Nibble)
  /-- `8XY3` XOR Vx, Vy (R165). -/
  | xor (x y : Nibble)
  /-- `8XY4` ADD Vx, Vy (R166). -/
  | addReg (x y : Nibble)
  /-- `8XY5` SUB Vx, Vy (R167). -/
  | sub (x y : Nibble)
  /-- `8XY6` SHR Vx (R168); the Y nibble is not read. -/
  | shr (x y : Nibble)
  /-- `8XY7` SUBN Vx, Vy (R169). -/
  | subn (x y : Nibble)
  /-- `8XYE` SHL Vx (R170); the Y nibble is not read. -/
  | shl (x y : Nibble)
  /-- `9XY_` SNE Vx, Vy (R147); the N nibble is ignored. -/
  | sneReg (x y n : Nibble)
  /-- `ANNN` LD I, addr (R190). -/
  | ldI (nnn : Addr)
  /-- `BNNN` JP V0, addr (R148). -/
  | jpV0 (nnn : Addr)
  /-- `CXNN` RND Vx, byte (R171). -/
  | rnd (x : Nibble) (nn : Byte)
  /-- `DXYN` DRW Vx, Vy, nibble (R122). -/
  | drw (x y n : Nibble)
  /-- `EX9E` SKP Vx (R210). -/
  | skp (x : Nibble)
  /-- `EXA1` SKNP Vx (R211). -/
  | sknp (x : Nibble)
  /-- `FX07` LD Vx, DT (R212). -/
  | ldVxDt (x : Nibble)
  /-- `FX15` LD DT, Vx (R213). -/
  | ldDtVx (x : Nibble)
  /-- `FX18` LD ST, Vx (R214). -/
  | ldStVx (x : Nibble)
  /-- `FX1E` ADD I, Vx (R191). -/
  | addIVx (x : Nibble)
  /-- `FX0A` LD Vx, K (R215). -/
  | ldVxK (x : Nibble)
  /-- `FX29` LD F, Vx (R192). -/
  | ldFVx (x : Nibble)
  /-- `FX33` LD B, Vx (R193). -/
  | ldBVx (x : Nibble)
  /-- `FX55` LD [I], Vx (R194). -/
  | ldMemVx (x : Nibble)
  /-- `FX65` LD Vx, [I] (R195). -/
  | ldVxMem (x : Nibble)
  deriving DecidableEq, Repr

end Sys2Proof
end

