-- ==== Sys2Proof/WellFormed.lean ====
section
/-! DEFINITION. Which terms of Instr are well formed. Every operand's type has exactly the width of the field of the word
it stands for (30_encoding.md R81, R82), so each term is some word's instruction and the machine takes every one of them
(R83: an ignored nibble may hold any value). The one condition the spec puts on the spelling of an instruction is the
assembler's: an ignored nibble is assembled as 0 (R89). -/

namespace Sys2Proof

/-- The terms the machine gives a meaning to: all of them, since a field's bound is its type and the decoder accepts every
value of an ignored nibble (R83). -/
def Instr.wellFormed (_ : Instr) : Bool := true

/-- The terms an assembler of R89 writes: those whose ignored nibbles are 0. The optional `, Vy` of SHR and SHL sets their
Y nibble, so any Y is assembled there. -/
def Instr.assembled : Instr → Bool
  | .cls x => x == 0
  | .ret x => x == 0
  | .seReg _ _ n => n == 0
  | .sneReg _ _ n => n == 0
  | .jp _ => true
  | .call _ => true
  | .seImm _ _ => true
  | .sneImm _ _ => true
  | .ldImm _ _ => true
  | .addImm _ _ => true
  | .ldReg _ _ => true
  | .or _ _ => true
  | .and _ _ => true
  | .xor _ _ => true
  | .addReg _ _ => true
  | .sub _ _ => true
  | .shr _ _ => true
  | .subn _ _ => true
  | .shl _ _ => true
  | .ldI _ => true
  | .jpV0 _ => true
  | .rnd _ _ => true
  | .drw _ _ _ => true
  | .skp _ => true
  | .sknp _ => true
  | .ldVxDt _ => true
  | .ldDtVx _ => true
  | .ldStVx _ => true
  | .addIVx _ => true
  | .ldVxK _ => true
  | .ldFVx _ => true
  | .ldBVx _ => true
  | .ldMemVx _ => true
  | .ldVxMem _ => true

end Sys2Proof
end

