-- ==== Sys2Proof/Decode.lean ====
section
/-! DEFINITION. The decoder, total on any bytes, and after it the encoder (30_encoding.md R80 to R88). -/

namespace Sys2Proof

/-! Fields are taken and words are built on natural numbers and cut to their width by `BitVec.ofNat` (00_scope.md R7, R8): the
field `w[hi:lo]` is `w div 2^lo` cut to `hi - lo + 1` bits. -/

/-- The word of two bytes: big-endian, the first byte being bits 15 to 8 (20_memory.md R67). -/
def wordOfBytes (hi lo : Byte) : Word := BitVec.ofNat 16 (hi.toNat * 256 + lo.toNat)

/-- The two bytes of a word as memory holds them, the byte at the lower address first (R67). -/
def bytesOfWord (w : Word) : List Byte := [BitVec.ofNat 8 (w.toNat / 256), BitVec.ofNat 8 w.toNat]

/-- The class, `w[15:12]` (R81). -/
def fieldClass (w : Word) : Nibble := BitVec.ofNat 4 (w.toNat / 4096)

/-- The X nibble, `w[11:8]` (R81). -/
def fieldX (w : Word) : Nibble := BitVec.ofNat 4 (w.toNat / 256)

/-- The Y nibble, `w[7:4]` (R81). -/
def fieldY (w : Word) : Nibble := BitVec.ofNat 4 (w.toNat / 16)

/-- The N nibble, `w[3:0]` (R81). -/
def fieldN (w : Word) : Nibble := BitVec.ofNat 4 w.toNat

/-- The 8-bit immediate NN, `w[7:0]` (R82). -/
def fieldNN (w : Word) : Byte := BitVec.ofNat 8 w.toNat

/-- The 12-bit address NNN, `w[11:0]` (R82). -/
def fieldNNN (w : Word) : Addr := BitVec.ofNat 12 w.toNat

/-- Why the decoder gives no instruction. -/
inductive DecodeError where
  /-- A decode miss: the word matches no row (R86). Raised by decodeWord. Safe: the Step runs it as the no-op the spec
  says it is. -/
  | unmatched (w : Word)
  /-- Fewer than the two bytes of an instruction (R80). Raised by decode. Safe: a Step never meets it, since its fetch
  reads two bytes or faults (R101). -/
  | truncated
  deriving DecidableEq, Repr

/-- The instruction of class 0: the low byte selects CLS or RET and the X nibble is ignored (R83, R84 rows 1 and 2). -/
def decodeClass0 (w : Word) : Except DecodeError Instr :=
  match (fieldNN w).toNat with
  | 0xE0 => .ok (.cls (fieldX w))
  | 0xEE => .ok (.ret (fieldX w))
  | _ => .error (.unmatched w)

/-- The instruction of class 8: the N nibble selects the operation (R84 rows 10 to 18). -/
def decodeClass8 (w : Word) : Except DecodeError Instr :=
  match (fieldN w).toNat with
  | 0x0 => .ok (.ldReg (fieldX w) (fieldY w))
  | 0x1 => .ok (.or (fieldX w) (fieldY w))
  | 0x2 => .ok (.and (fieldX w) (fieldY w))
  | 0x3 => .ok (.xor (fieldX w) (fieldY w))
  | 0x4 => .ok (.addReg (fieldX w) (fieldY w))
  | 0x5 => .ok (.sub (fieldX w) (fieldY w))
  | 0x6 => .ok (.shr (fieldX w) (fieldY w))
  | 0x7 => .ok (.subn (fieldX w) (fieldY w))
  | 0xE => .ok (.shl (fieldX w) (fieldY w))
  | _ => .error (.unmatched w)

/-- The instruction of class E: the low byte selects it (R84 rows 24 and 25). -/
def decodeClassE (w : Word) : Except DecodeError Instr :=
  match (fieldNN w).toNat with
  | 0x9E => .ok (.skp (fieldX w))
  | 0xA1 => .ok (.sknp (fieldX w))
  | _ => .error (.unmatched w)

/-- The instruction of class F: the low byte selects it (R84 rows 26 to 34). -/
def decodeClassF (w : Word) : Except DecodeError Instr :=
  match (fieldNN w).toNat with
  | 0x07 => .ok (.ldVxDt (fieldX w))
  | 0x0A => .ok (.ldVxK (fieldX w))
  | 0x15 => .ok (.ldDtVx (fieldX w))
  | 0x18 => .ok (.ldStVx (fieldX w))
  | 0x1E => .ok (.addIVx (fieldX w))
  | 0x29 => .ok (.ldFVx (fieldX w))
  | 0x33 => .ok (.ldBVx (fieldX w))
  | 0x55 => .ok (.ldMemVx (fieldX w))
  | 0x65 => .ok (.ldVxMem (fieldX w))
  | _ => .error (.unmatched w)

/-- Decode one word: the one row of R84 that it matches, or its rejection by name (R86, R103). The class nibble is below
16, so the last arm is class F. -/
def decodeWord (w : Word) : Except DecodeError Instr :=
  match (fieldClass w).toNat with
  | 0x0 => decodeClass0 w
  | 0x1 => .ok (.jp (fieldNNN w))
  | 0x2 => .ok (.call (fieldNNN w))
  | 0x3 => .ok (.seImm (fieldX w) (fieldNN w))
  | 0x4 => .ok (.sneImm (fieldX w) (fieldNN w))
  | 0x5 => .ok (.seReg (fieldX w) (fieldY w) (fieldN w))
  | 0x6 => .ok (.ldImm (fieldX w) (fieldNN w))
  | 0x7 => .ok (.addImm (fieldX w) (fieldNN w))
  | 0x8 => decodeClass8 w
  | 0x9 => .ok (.sneReg (fieldX w) (fieldY w) (fieldN w))
  | 0xA => .ok (.ldI (fieldNNN w))
  | 0xB => .ok (.jpV0 (fieldNNN w))
  | 0xC => .ok (.rnd (fieldX w) (fieldNN w))
  | 0xD => .ok (.drw (fieldX w) (fieldY w) (fieldN w))
  | 0xE => decodeClassE w
  | _ => decodeClassF w

/-- Decode the instruction at the head of a list of bytes, giving back the bytes after it. Every instruction is two bytes
(R80). -/
def decode : List Byte → Except DecodeError (Instr × List Byte)
  | hi :: lo :: rest =>
    match decodeWord (wordOfBytes hi lo) with
    | .ok i => .ok (i, rest)
    | .error e => .error e
  | _ => .error .truncated

/-- A word whose fields are class, X, Y and N (R81). -/
def wordXYN (c x y n : Nibble) : Word :=
  BitVec.ofNat 16 (c.toNat * 4096 + x.toNat * 256 + y.toNat * 16 + n.toNat)

/-- A word whose fields are class, X and NN (R82). -/
def wordXNN (c x : Nibble) (nn : Byte) : Word :=
  BitVec.ofNat 16 (c.toNat * 4096 + x.toNat * 256 + nn.toNat)

/-- A word whose fields are class and NNN (R82). -/
def wordNNN (c : Nibble) (nnn : Addr) : Word := BitVec.ofNat 16 (c.toNat * 4096 + nnn.toNat)

/-- The word of an instruction, from the pattern column of R84. -/
def encode : Instr → Word
  | .cls x => wordXNN 0x0 x 0xE0
  | .ret x => wordXNN 0x0 x 0xEE
  | .jp nnn => wordNNN 0x1 nnn
  | .call nnn => wordNNN 0x2 nnn
  | .seImm x nn => wordXNN 0x3 x nn
  | .sneImm x nn => wordXNN 0x4 x nn
  | .seReg x y n => wordXYN 0x5 x y n
  | .ldImm x nn => wordXNN 0x6 x nn
  | .addImm x nn => wordXNN 0x7 x nn
  | .ldReg x y => wordXYN 0x8 x y 0x0
  | .or x y => wordXYN 0x8 x y 0x1
  | .and x y => wordXYN 0x8 x y 0x2
  | .xor x y => wordXYN 0x8 x y 0x3
  | .addReg x y => wordXYN 0x8 x y 0x4
  | .sub x y => wordXYN 0x8 x y 0x5
  | .shr x y => wordXYN 0x8 x y 0x6
  | .subn x y => wordXYN 0x8 x y 0x7
  | .shl x y => wordXYN 0x8 x y 0xE
  | .sneReg x y n => wordXYN 0x9 x y n
  | .ldI nnn => wordNNN 0xA nnn
  | .jpV0 nnn => wordNNN 0xB nnn
  | .rnd x nn => wordXNN 0xC x nn
  | .drw x y n => wordXYN 0xD x y n
  | .skp x => wordXNN 0xE x 0x9E
  | .sknp x => wordXNN 0xE x 0xA1
  | .ldVxDt x => wordXNN 0xF x 0x07
  | .ldDtVx x => wordXNN 0xF x 0x15
  | .ldStVx x => wordXNN 0xF x 0x18
  | .addIVx x => wordXNN 0xF x 0x1E
  | .ldVxK x => wordXNN 0xF x 0x0A
  | .ldFVx x => wordXNN 0xF x 0x29
  | .ldBVx x => wordXNN 0xF x 0x33
  | .ldMemVx x => wordXNN 0xF x 0x55
  | .ldVxMem x => wordXNN 0xF x 0x65

/-- A line of the opcode map (R84): the row's mnemonic, and the mask and match a decoder tests. -/
structure OpcodeRow where
  mnemonic : String
  mask : Word
  pattern : Word
  deriving DecidableEq, Repr

/-- The word is of the row: `w AND mask = match` (R84). -/
def OpcodeRow.selects (r : OpcodeRow) (w : Word) : Bool := (w &&& r.mask) == r.pattern

/-- The row of R84 an instruction belongs to. -/
def rowOf : Instr → OpcodeRow
  | .cls _ => ⟨"CLS", 0xF0FF, 0x00E0⟩
  | .ret _ => ⟨"RET", 0xF0FF, 0x00EE⟩
  | .jp _ => ⟨"JP", 0xF000, 0x1000⟩
  | .call _ => ⟨"CALL", 0xF000, 0x2000⟩
  | .seImm _ _ => ⟨"SE_IMM", 0xF000, 0x3000⟩
  | .sneImm _ _ => ⟨"SNE_IMM", 0xF000, 0x4000⟩
  | .seReg _ _ _ => ⟨"SE_REG", 0xF000, 0x5000⟩
  | .ldImm _ _ => ⟨"LD_IMM", 0xF000, 0x6000⟩
  | .addImm _ _ => ⟨"ADD_IMM", 0xF000, 0x7000⟩
  | .ldReg _ _ => ⟨"LD_REG", 0xF00F, 0x8000⟩
  | .or _ _ => ⟨"OR", 0xF00F, 0x8001⟩
  | .and _ _ => ⟨"AND", 0xF00F, 0x8002⟩
  | .xor _ _ => ⟨"XOR", 0xF00F, 0x8003⟩
  | .addReg _ _ => ⟨"ADD_REG", 0xF00F, 0x8004⟩
  | .sub _ _ => ⟨"SUB", 0xF00F, 0x8005⟩
  | .shr _ _ => ⟨"SHR", 0xF00F, 0x8006⟩
  | .subn _ _ => ⟨"SUBN", 0xF00F, 0x8007⟩
  | .shl _ _ => ⟨"SHL", 0xF00F, 0x800E⟩
  | .sneReg _ _ _ => ⟨"SNE_REG", 0xF000, 0x9000⟩
  | .ldI _ => ⟨"LD_I", 0xF000, 0xA000⟩
  | .jpV0 _ => ⟨"JP_V0", 0xF000, 0xB000⟩
  | .rnd _ _ => ⟨"RND", 0xF000, 0xC000⟩
  | .drw _ _ _ => ⟨"DRW", 0xF000, 0xD000⟩
  | .skp _ => ⟨"SKP", 0xF0FF, 0xE09E⟩
  | .sknp _ => ⟨"SKNP", 0xF0FF, 0xE0A1⟩
  | .ldVxDt _ => ⟨"LD_VX_DT", 0xF0FF, 0xF007⟩
  | .ldDtVx _ => ⟨"LD_DT_VX", 0xF0FF, 0xF015⟩
  | .ldStVx _ => ⟨"LD_ST_VX", 0xF0FF, 0xF018⟩
  | .addIVx _ => ⟨"ADD_I_VX", 0xF0FF, 0xF01E⟩
  | .ldVxK _ => ⟨"LD_VX_K", 0xF0FF, 0xF00A⟩
  | .ldFVx _ => ⟨"LD_F_VX", 0xF0FF, 0xF029⟩
  | .ldBVx _ => ⟨"LD_B_VX", 0xF0FF, 0xF033⟩
  | .ldMemVx _ => ⟨"LD_MEM_VX", 0xF0FF, 0xF055⟩
  | .ldVxMem _ => ⟨"LD_VX_MEM", 0xF0FF, 0xF065⟩

/-- The 34 rows of R84 in the table's order. -/
def opcodeTable : List OpcodeRow :=
  [rowOf (.cls 0), rowOf (.ret 0), rowOf (.jp 0), rowOf (.call 0), rowOf (.seImm 0 0), rowOf (.sneImm 0 0),
    rowOf (.seReg 0 0 0), rowOf (.ldImm 0 0), rowOf (.addImm 0 0)] ++
  [rowOf (.ldReg 0 0), rowOf (.or 0 0), rowOf (.and 0 0), rowOf (.xor 0 0), rowOf (.addReg 0 0), rowOf (.sub 0 0),
    rowOf (.shr 0 0), rowOf (.subn 0 0), rowOf (.shl 0 0)] ++
  [rowOf (.sneReg 0 0 0), rowOf (.ldI 0), rowOf (.jpV0 0), rowOf (.rnd 0 0), rowOf (.drw 0 0 0), rowOf (.skp 0),
    rowOf (.sknp 0)] ++
  [rowOf (.ldVxDt 0), rowOf (.ldDtVx 0), rowOf (.ldStVx 0), rowOf (.addIVx 0), rowOf (.ldVxK 0), rowOf (.ldFVx 0),
    rowOf (.ldBVx 0), rowOf (.ldMemVx 0), rowOf (.ldVxMem 0)]

/-- The word whose bits are `w`, numbered as spec/opcode_table.json numbers them, of which the table gives `nbits`; the
bits above are 0. An instruction is one 16-bit word (R80). -/
def tableWord (nbits w : Nat) : Word := BitVec.ofNat 16 (w % 2 ^ nbits)

/-- What the decoder reads from an instruction whose bits are `w`, laid out as the hardware stores it. -/
def decodeTableWord (nbits w : Nat) : Option Instr :=
  match decode (bytesOfWord (tableWord nbits w)) with
  | .ok (i, _) => some i
  | .error _ => none

end Sys2Proof
end

