-- ==== Sys2Proof/Config.lean ====
section
/-! DEFINITION. What an implementation fixes: the sizes of the machine's arrays (00_scope.md R6), the type of the
block's three open parameters (92_eei_decisions.md section 7), and the free value of CXNN's random byte. The values
of the other constants of R6 stand in Machine/Constants.lean. -/

namespace Sys2Proof.Config

/-- `NUM_REGS` of R6: general registers V0 to VF. -/
abbrev numRegs : Nat := 16

/-- `STACK_DEPTH` of R6: entries of the call stack. -/
abbrev stackDepth : Nat := 32

/-- `SCREEN_W` of R6: framebuffer columns. -/
abbrev screenW : Nat := 64

/-- `SCREEN_H` of R6: framebuffer rows. -/
abbrev screenH : Nat := 32

/-- `NUM_KEYS` of R6: logical keys 0 to 15. -/
abbrev numKeys : Nat := 16

/-- The bytes of `FONT_DATA`: `FONT_GLYPHS` = 16 glyphs of `FONT_GLYPH_BYTES` = 5 bytes (R6, R62). -/
abbrev fontSize : Nat := 80

/-- The open parameters of the block (92_eei_decisions.md section 7): a model takes them as arguments, so they are plain
data that the machine is created with (R270) and that no instruction and no command but Reset changes. -/
structure Params where
  /-- `FONT_DATA`: the 80 font bytes, glyph by glyph (20_memory.md R63). -/
  fontData : Vector Byte fontSize
  /-- `SHL_FLAG_BIT`: the bit of Vx that 8XYE copies to VF (R6, R170). -/
  shlFlagBit : Fin 8
  /-- `RELEASE_SCAN_KEYS`: how many keys, from key 0, the release scan examines (R6, R244). -/
  releaseScanKeys : Fin 17
  deriving DecidableEq, Repr

/-- The random byte the environment gives to the Step numbered `n` (60_exceptions.md R250, decision D24): a FREE VALUE.
It has no body, so nothing in Lean can evaluate it, and a proof holds for every sequence of bytes. Log entry 6. -/
opaque draw : Nat → Byte

end Sys2Proof.Config
end

