-- ==== Sys2Proof/Machine/Constants.lean ====
section
/-! DEFINITION. The named constants of 00_scope.md R6 and the default values of the open parameters. -/

namespace Sys2Proof.Config

/-- `MEM_SIZE`: bytes of memory, addresses 0x000 to 0xFFF. -/
def memSize : Nat := 4096

/-- `PROG_BASE`: first address of the loaded program image and reset value of pc. -/
def progBase : Nat := 0x200

/-- `PROG_CAPACITY`: most bytes one Load copies. -/
def progCapacity : Nat := memSize - progBase

/-- `FONT_BASE`: first byte of the built-in font. -/
def fontBase : Nat := 0x050

/-- `FONT_GLYPH_BYTES`: bytes per glyph. -/
def fontGlyphBytes : Nat := 5

/-- `FONT_GLYPHS`: glyphs, one per nibble value. -/
def fontGlyphs : Nat := 16

/-- `FONT_END`: first address after the font (90_conflicts.md C1). -/
def fontEnd : Nat := 0x0A0

/-- `FLAG_REG`: the register written as carry, borrow, shift-out and collision flag. -/
def flagReg : Nibble := 15

/-- The default `FONT_DATA` of 20_memory.md R63. PRESUMED by the spec itself, from general knowledge (decision D7, G1): log
entry 1. Unsafe where a claim rests on these bytes; statements of this model hold for every font. -/
def defaultFont : Vector Byte fontSize :=
  ⟨⟨[0xF0, 0x90, 0x90, 0x90, 0xF0] ++ [0x20, 0x60, 0x20, 0x20, 0x70] ++
    [0xF0, 0x10, 0xF0, 0x80, 0xF0] ++ [0xF0, 0x10, 0xF0, 0x10, 0xF0] ++
    [0x90, 0x90, 0xF0, 0x10, 0x10] ++ [0xF0, 0x80, 0xF0, 0x10, 0xF0] ++
    [0xF0, 0x80, 0xF0, 0x90, 0xF0] ++ [0xF0, 0x10, 0x20, 0x40, 0x40] ++
    [0xF0, 0x90, 0xF0, 0x90, 0xF0] ++ [0xF0, 0x90, 0xF0, 0x10, 0xF0] ++
    [0xF0, 0x90, 0xF0, 0x90, 0x90] ++ [0xE0, 0x90, 0xE0, 0x90, 0xE0] ++
    [0xF0, 0x80, 0x80, 0x80, 0xF0] ++ [0xE0, 0x90, 0x90, 0x90, 0xE0] ++
    [0xF0, 0x80, 0xF0, 0x80, 0xF0] ++ [0xF0, 0x80, 0xF0, 0x80, 0x80]⟩, rfl⟩

/-- The parameters of this hardware: the default font, `SHL_FLAG_BIT` = 3 and `RELEASE_SCAN_KEYS` = 15 (R6, decisions D7,
D22, D23). Log entries 1, 2 and 3. -/
def defaultParams : Params :=
  { fontData := defaultFont, shlFlagBit := 3, releaseScanKeys := 15 }

end Sys2Proof.Config
end

