-- ==== Sys2Proof/Machine/State.lean ====
section
/-! DEFINITION. The state of the machine (10_state.md), the reasons a rule can fault (60_exceptions.md R233) or a command be
refused, and the state after reset (R44 to R47, 70_reset_and_hazards.md R270). -/

namespace Sys2Proof.Machine

/-- The fault codes of R233. A fault is a NEXT state (R232: the Step is discarded and only the fault status is written), so
these are the codes that State.fault records; no step of the machine answers Host.Outcome.fault. -/
inductive Fault where
  /-- FETCH_OOB, code 1. Raised by the fetch of every Step when `pc + 1 ≥ 4096` (R101). Safe (decision D10). -/
  | fetchOob
  /-- MEM_OOB, code 2. Raised by DXYN with N > 0, FX33, FX55 and FX65 when their byte range reaches an address of 4096 or
  more (R68). Safe (decision D11). -/
  | memOob
  /-- STACK_OVERFLOW, code 3. Raised by 2NNN when SP = 32 (R143). Safe (decision D13). -/
  | stackOverflow
  /-- STACK_UNDERFLOW, code 4. Raised by 00EE when SP = 0 (R141). Safe (decision D13). -/
  | stackUnderflow
  /-- INDEX_OVERFLOW, code 5. Raised by FX1E when `I + Vx > 0xFFFF` (R191). Safe (decision D14). -/
  | indexOverflow
  /-- KEY_RANGE, code 6. Raised by EX9E and EXA1 when `Vx > 15` (R210, R211). Safe (decision D15). -/
  | keyRange
  deriving DecidableEq, Repr

/-- Why an instruction or a host command has no meaning. -/
inductive Refusal where
  /-- An instruction whose meaning is not written, by its mnemonic. Raised by exec's refused arms only (there are none).
  Safe. -/
  | notModelled (mnemonic : String)
  /-- A Load after the first Step or a second Load. Raised by the command Load (R272, decision D28). Safe. -/
  | loadAfterBoot
  /-- SetPressed with a key index above 15. Raised by the command SetPressed (R257, decision D33). Safe. -/
  | keyIndexAbove15
  deriving DecidableEq, Repr

/-- The record of a fault (R40, R232): its code, the address `a` of the Step that met it, and the word fetched there, none
when the fetch itself faulted. -/
structure FaultRecord where
  code : Fault
  pcAtFetch : Word
  word : Option Word
  deriving DecidableEq, Repr

/-- Memory: the cells that differ from what an unlisted address reads as, by rising address (R60). -/
abbrev Memory := List Host.Cell

/-- The pixel grid, 32 rows of 64 one-bit pixels (R32). -/
abbrev Grid := Vector (Vector Bool Config.screenW) Config.screenH

/-- Everything the spec gives the machine (10_state.md section 10), then the block's parameters and three fields of the
model's own (log entries 1 to 3, 6 and 7). -/
structure State where
  /-- Memory (R60). -/
  mem : Memory
  /-- General registers V0 to VF (R20). -/
  x : Vector Byte Config.numRegs
  /-- The index register I (R23). -/
  i : Word
  /-- The program counter (R24). -/
  pc : Word
  /-- The call stack (R27). -/
  stack : Vector Word Config.stackDepth
  /-- The stack pointer SP, 0 to 32 (R28). -/
  sp : Fin (Config.stackDepth + 1)
  /-- The delay timer DT (R29). -/
  dt : Byte
  /-- The sound timer ST (R30). -/
  st : Byte
  /-- The framebuffer's pixels (R32). -/
  pix : Grid
  /-- The dirty flag (R35). -/
  dirty : Bool
  /-- The keypad state vector (R37). -/
  key : Vector Bool Config.numKeys
  /-- The most recently released key (R38). -/
  lastReleased : Nibble
  /-- Whether the last update found a release not yet consumed (R39). -/
  justReleased : Bool
  /-- The fault status (R40). -/
  fault : Option FaultRecord
  /-- The block's parameters (92_eei_decisions.md section 7): set at reset, written by nothing else. -/
  params : Config.Params
  /-- The model's own: the random byte the environment gave to the Step now running (R250). -/
  draw : Byte
  /-- The model's own: how many Steps have taken a random byte (R250, R272). -/
  steps : Nat
  /-- The model's own: whether the one Load has been done (R272). -/
  loaded : Bool
  deriving DecidableEq, Repr

/-- The state after the command Reset with the parameters `p` (R270): pc at 0x200 (R44), the registers, the stack and the
timers 0 (R45), the display and the keypad clear and no fault (R46), memory with nothing listed, which is the font at
0x050 to 0x09F and 0x00 elsewhere (R47, R65). -/
def State.resetWith (p : Config.Params) : State :=
  { mem := []
    x := Vector.replicate Config.numRegs 0
    i := 0
    pc := BitVec.ofNat 16 Config.progBase
    stack := Vector.replicate Config.stackDepth 0
    sp := 0
    dt := 0
    st := 0
    pix := Vector.replicate Config.screenH (Vector.replicate Config.screenW false)
    dirty := false
    key := Vector.replicate Config.numKeys false
    lastReleased := 0
    justReleased := false
    fault := none
    params := p
    draw := 0
    steps := 0
    loaded := false }

/-- The machine right after reset, with the parameters of this hardware (R6). -/
def State.reset : State := State.resetWith Config.defaultParams

end Sys2Proof.Machine
end

