-- ==== Sys2Proof/Machine/Ops.lean ====
section
/-! DEFINITION. The named operations over memory, registers, the stack and the fault status that every meaning is written
with: 20_memory.md, 10_state.md, and fault entry of 60_exceptions.md R232. -/

namespace Sys2Proof.Machine

/-! ### Memory (20_memory.md) -/

/-- What an address that memory does not list reads as: the reset contents, `FONT_DATA` at 0x050 to 0x09F and 0x00 elsewhere
(R62, R65). -/
def Memory.unlisted (font : Vector Byte Config.fontSize) (a : Nat) : Byte :=
  if h : Config.fontBase ≤ a ∧ a - Config.fontBase < Config.fontSize then font[a - Config.fontBase]'h.2 else 0

/-- The byte at an address (R60). Reading has no side effect (R71). -/
def Memory.read (font : Vector Byte Config.fontSize) (m : Memory) (a : Nat) : Byte :=
  match m with
  | [] => Memory.unlisted font a
  | (k, b) :: rest => if k = a then b else Memory.read font rest a

/-- List the byte `b` at the address `a`, in its place by address. -/
def Memory.insert (m : Memory) (a : Nat) (b : Byte) : Memory :=
  match m with
  | [] => [(a, b)]
  | (k, c) :: rest =>
    if a < k then (a, b) :: (k, c) :: rest
    else if k = a then (a, b) :: rest
    else (k, c) :: Memory.insert rest a b

/-- Take the address `a` off the list. -/
def Memory.erase (m : Memory) (a : Nat) : Memory :=
  match m with
  | [] => []
  | (k, c) :: rest => if k = a then Memory.erase rest a else (k, c) :: Memory.erase rest a

/-- Write one byte. An address of 4096 or more does not exist (R68): every meaning checks its range before it writes, so
nothing is written there. -/
def Memory.write (font : Vector Byte Config.fontSize) (m : Memory) (a : Nat) (b : Byte) : Memory :=
  if a < Config.memSize then
    if b = Memory.unlisted font a then Memory.erase m a else Memory.insert m a b
  else m

/-- Write bytes at ascending addresses from `a` (R70, R72). -/
def Memory.writeBytes (font : Vector Byte Config.fontSize) (m : Memory) (a : Nat) (bs : List Byte) : Memory :=
  match bs with
  | [] => m
  | b :: rest => Memory.writeBytes font (Memory.write font m a b) (a + 1) rest

/-- The canonical form: addresses strictly rising, all of them in memory, and no cell that equals what an unlisted address
reads as. -/
abbrev Memory.wf (font : Vector Byte Config.fontSize) (m : Memory) : Prop :=
  List.Pairwise (fun p q => p.1 < q.1) m ∧ ∀ c ∈ m, c.1 < Config.memSize ∧ c.2 ≠ Memory.unlisted font c.1

/-- The byte at an address of the machine's memory. -/
def State.readByte (s : State) (a : Nat) : Byte := Memory.read s.params.fontData s.mem a

/-- The `n` bytes at `a`, `a + 1`, ..., in ascending order (`MemRead(addr, n)` of 00_scope.md R8). -/
def State.readBytes (s : State) (a n : Nat) : List Byte := (List.range n).map fun k => s.readByte (a + k)

/-- Write bytes at ascending addresses from `a`. -/
def State.writeBytes (s : State) (a : Nat) (bs : List Byte) : State :=
  { s with mem := Memory.writeBytes s.params.fontData s.mem a bs }

/-! ### Registers (10_state.md) -/

/-- Read general register `r` (R20). -/
def State.reg (s : State) (r : Nibble) : Byte := s.x[r.toNat]'r.isLt

/-- Write general register `r` (R20). -/
def State.setReg (s : State) (r : Nibble) (v : Byte) : State := { s with x := s.x.set r.toNat v r.isLt }

/-- Write the flag register VF (R21). -/
def State.setFlag (s : State) (v : Byte) : State := s.setReg Config.flagReg v

/-- Write the registers `k`, `k + 1`, ... from a list of bytes, in ascending order (R195). -/
def State.setRegs (s : State) (k : Nat) (bs : List Byte) : State :=
  match bs with
  | [] => s
  | b :: rest => State.setRegs (s.setReg (BitVec.ofNat 4 k) b) (k + 1) rest

/-- Write the index register (R23). -/
def State.setI (s : State) (v : Word) : State := { s with i := v }

/-- Write the program counter (R24). -/
def State.setPc (s : State) (v : Word) : State := { s with pc := v }

/-- The step's advance, `pc <- pc + 2` (40_step_cycle.md R102). -/
def State.advance (s : State) : State := s.setPc (s.pc + 2)

/-- Skip the next instruction when `c` holds: `pc <- pc + 2` after the step's own advance (42_control_flow.md R140). -/
def State.skipIf (s : State) (c : Bool) : State := if c then s.setPc (s.pc + 2) else s

/-! ### The call stack (R27, R28) -/

/-- Push: write `stack[SP]`, then raise SP; none when SP = 32. -/
def State.push (s : State) (v : Word) : Option State :=
  if h : s.sp.val < Config.stackDepth then
    some { s with stack := s.stack.set s.sp.val v h, sp := ⟨s.sp.val + 1, Nat.succ_lt_succ h⟩ }
  else none

/-- Pop: lower SP, then read `stack[SP]`; none when SP = 0. The entry keeps its value. -/
def State.pop (s : State) : Option (Word × State) :=
  if h : s.sp.val = 0 then none
  else
    some (s.stack[s.sp.val - 1]'(by have := s.sp.isLt; omega),
      { s with sp := ⟨s.sp.val - 1, by have := s.sp.isLt; omega⟩ })

/-! ### Faults (60_exceptions.md R231 to R233) -/

/-- The number of a fault code (R233). -/
def Fault.code : Fault → Nat
  | .fetchOob => 1
  | .memOob => 2
  | .stackOverflow => 3
  | .stackUnderflow => 4
  | .indexOverflow => 5
  | .keyRange => 6

/-- Fault entry (R232): pc is the fetch address `a` again and the fault status records the code, `a` and the word. The
rule that raises it has written nothing (00_scope.md R10), so this discards the whole Step. -/
def State.enterFault (s : State) (code : Fault) (a : Word) (w : Option Word) : State :=
  { s with pc := a, fault := some { code := code, pcAtFetch := a, word := w } }

/-- The instruction `i` raises a fault: pc already holds `a + 2` (40_step_cycle.md R107), so the Step was fetched from
`pc - 2`, and its word is the instruction's own. -/
def State.raise (s : State) (code : Fault) (i : Instr) : State :=
  s.enterFault code (s.pc - 2) (some (encode i))

/-! ### The step's parts (40_step_cycle.md R100, R101) -/

/-- The Step takes the random byte `d` from its environment (60_exceptions.md R250). -/
def State.beginStep (s : State) (d : Byte) : State := { s with draw := d, steps := s.steps + 1 }

/-- The fetch: the big-endian word at pc, none when `pc + 1 ≥ 4096` (R101). -/
def State.fetch (s : State) : Option Word :=
  if s.pc.toNat + 1 < Config.memSize then
    some (wordOfBytes (s.readByte s.pc.toNat) (s.readByte (s.pc.toNat + 1)))
  else none

/-- Put an instruction word where the next Step fetches it. A Step fetches nothing while the block is faulted or when pc is
past the last word of memory, so a fault is cleared and such a pc is put at 0x200. -/
def State.placeWord (s : State) (w : Word) : State :=
  let s := { s with fault := none, pc := if s.pc.toNat + 1 < Config.memSize then s.pc else BitVec.ofNat 16 Config.progBase }
  s.writeBytes s.pc.toNat (bytesOfWord w)

end Sys2Proof.Machine
end

