-- ==== Sys2Proof/Machine/Operands.lean ====
section
/-! DEFINITION. The operand forms: zero-extended immediates (30_encoding.md R82), the one addressing mode "I plus a small
offset" (20_memory.md R70), the font address, the key index, the decimal digits and the indexed jump's target. -/

namespace Sys2Proof.Machine

/-- `zext_16(NNN)` (R82). -/
def zextAddr (nnn : Addr) : Word := nnn.setWidth 16

/-- `zext_16` of a byte (R148). -/
def zextByte (v : Byte) : Word := v.setWidth 16

/-- A key index as a register value (45_keypad_timers.md R215). -/
def zextNibble (k : Nibble) : Byte := k.setWidth 8

/-- `wrap8(v)` of 00_scope.md R8: `v mod 256`. -/
def wrap8 (v : Nat) : Byte := BitVec.ofNat 8 v

/-- Every byte of the range of `n` bytes at `I` is in memory (R68, R70). A range of no bytes always is. -/
def State.rangeInMemory (s : State) (n : Nat) : Bool := n == 0 || decide (s.i.toNat + n ≤ Config.memSize)

/-- The address of the glyph of a register's low nibble (44_index_memory.md R192). -/
def fontGlyphAddr (v : Byte) : Word :=
  BitVec.ofNat 16 (Config.fontBase + (v &&& 0x0F).toNat * Config.fontGlyphBytes)

/-- The hundreds, tens and ones of a byte (44_index_memory.md R193). -/
def decimalDigits (v : Byte) : List Byte :=
  [wrap8 (v.toNat / 100), wrap8 (v.toNat / 10 % 10), wrap8 (v.toNat % 10)]

/-- The target of `BNNN`: `zext_16(x[0]) + zext_16(NNN)`, not cut to 12 bits (42_control_flow.md R148). -/
def State.indexedTarget (s : State) (nnn : Addr) : Word := zextByte (s.reg 0) + zextAddr nnn

/-- Registers V0 to Vx in ascending order (44_index_memory.md R194). -/
def State.regsUpTo (s : State) (x : Nibble) : List Byte :=
  (List.range (x.toNat + 1)).map fun k => s.reg (BitVec.ofNat 4 k)

/-- `key[v]`, none when the register value is above 15 (45_keypad_timers.md R210). -/
def State.keyPressed (s : State) (v : Byte) : Option Bool :=
  if h : v.toNat < Config.numKeys then some (s.key[v.toNat]'h) else none

end Sys2Proof.Machine
end

