-- ==== Sys2Proof/Machine/Flags.lean ====
section
/-! DEFINITION. Every flag computation (10_state.md R21): what the seven flag-writing instructions put in VF. -/

namespace Sys2Proof.Machine

/-- `b2u(c)` of 00_scope.md R8: 1 if the condition holds, else 0 (decision D19). -/
def b2u (c : Bool) : Byte := if c then 1 else 0

/-- The carry of 8XY4: 1 if the sum is above 255 (43_register_alu.md R166). -/
def carryFlag (a b : Byte) : Byte := b2u (decide (255 < a.toNat + b.toNat))

/-- The inverted borrow of 8XY5 and 8XY7 for `a - b`: 0 if `a < b`, else 1 (R167, R169). -/
def notBorrowFlag (a b : Byte) : Byte := b2u (!decide (a.toNat < b.toNat))

/-- The flag of a shift: bit `k` of the register before the shift (R168 with 0, R170 with `SHL_FLAG_BIT`). -/
def bitFlag (v : Byte) (k : Nat) : Byte := b2u (v.getLsbD k)

/-- The flag of FX1E: 1 when the new index no longer addresses memory (44_index_memory.md R191). -/
def beyondMemoryFlag (index : Nat) : Byte := b2u (decide (Config.memSize ≤ index))

end Sys2Proof.Machine
end

