-- ==== Sys2Proof/Machine/Alu.lean ====
section
/-! DEFINITION. The register and arithmetic instructions (43_register_alu.md). Sums and differences are computed on natural
numbers and cut to 8 bits at the end (00_scope.md R8, R172); where VF is written besides the destination, the writes stand
in the order the rule lists them, so the last one stays when X = 15 (R173, decision D21). -/

namespace Sys2Proof.Machine

/-- 6XNN LD (R160). -/
def execLdImm (x : Nibble) (nn : Byte) (s : State) : Host.Outcome State Fault Refusal := .next (s.setReg x nn)

/-- 7XNN ADD: no flag (R161). -/
def execAddImm (x : Nibble) (nn : Byte) (s : State) : Host.Outcome State Fault Refusal :=
  .next (s.setReg x (wrap8 ((s.reg x).toNat + nn.toNat)))

/-- 8XY0 LD (R162). -/
def execLdReg (x y : Nibble) (s : State) : Host.Outcome State Fault Refusal := .next (s.setReg x (s.reg y))

/-- 8XY1 OR (R163). -/
def execOr (x y : Nibble) (s : State) : Host.Outcome State Fault Refusal := .next (s.setReg x (s.reg x ||| s.reg y))

/-- 8XY2 AND (R164). -/
def execAnd (x y : Nibble) (s : State) : Host.Outcome State Fault Refusal := .next (s.setReg x (s.reg x &&& s.reg y))

/-- 8XY3 XOR (R165). -/
def execXor (x y : Nibble) (s : State) : Host.Outcome State Fault Refusal := .next (s.setReg x (s.reg x ^^^ s.reg y))

/-- 8XY4 ADD: the sum, then VF := carry (R166). -/
def execAddReg (x y : Nibble) (s : State) : Host.Outcome State Fault Refusal :=
  .next ((s.setReg x (wrap8 ((s.reg x).toNat + (s.reg y).toNat))).setFlag (carryFlag (s.reg x) (s.reg y)))

/-- 8XY5 SUB: Vx - Vy, then VF := not borrow (R167). -/
def execSub (x y : Nibble) (s : State) : Host.Outcome State Fault Refusal :=
  .next ((s.setReg x (wrap8 ((s.reg x).toNat + 256 - (s.reg y).toNat))).setFlag (notBorrowFlag (s.reg x) (s.reg y)))

/-- 8XY6 SHR: VF := bit 0, then the register, read after that write, is shifted right (R168). -/
def execShr (x _y : Nibble) (s : State) : Host.Outcome State Fault Refusal :=
  let t := s.setFlag (bitFlag (s.reg x) 0)
  .next (t.setReg x (t.reg x >>> 1))

/-- 8XY7 SUBN: Vy - Vx, then VF := not borrow (R169). -/
def execSubn (x y : Nibble) (s : State) : Host.Outcome State Fault Refusal :=
  .next ((s.setReg x (wrap8 ((s.reg y).toNat + 256 - (s.reg x).toNat))).setFlag (notBorrowFlag (s.reg y) (s.reg x)))

/-- 8XYE SHL: VF := bit `SHL_FLAG_BIT`, then the register, read after that write, is shifted left (R170). -/
def execShl (x _y : Nibble) (s : State) : Host.Outcome State Fault Refusal :=
  let t := s.setFlag (bitFlag (s.reg x) s.params.shlFlagBit.val)
  .next (t.setReg x (t.reg x <<< 1))

/-- CXNN RND: the Step's random byte, masked by the immediate (R171). The byte is a free value: log entry 6. -/
def execRnd (x : Nibble) (nn : Byte) (s : State) : Host.Outcome State Fault Refusal := .next (s.setReg x (s.draw &&& nn))

end Sys2Proof.Machine
end

