-- ==== Sys2Proof/Machine/Control.lean ====
section
/-! DEFINITION. The control-flow instructions (42_control_flow.md). In every meaning pc already holds `a + 2` (40_step_cycle.md
R107). -/

namespace Sys2Proof.Machine

/-- 00EE RET: pop the return address into pc; STACK_UNDERFLOW when SP = 0 (R141). -/
def execRet (x : Nibble) (s : State) : Host.Outcome State Fault Refusal :=
  match s.pop with
  | some (target, t) => .next (t.setPc target)
  | none => .next (s.raise .stackUnderflow (.ret x))

/-- 1NNN JP (R142). -/
def execJp (nnn : Addr) (s : State) : Host.Outcome State Fault Refusal := .next (s.setPc (zextAddr nnn))

/-- 2NNN CALL: push pc, which is the address after the call, and jump; STACK_OVERFLOW when SP = 32 (R143). -/
def execCall (nnn : Addr) (s : State) : Host.Outcome State Fault Refusal :=
  match s.push s.pc with
  | some t => .next (t.setPc (zextAddr nnn))
  | none => .next (s.raise .stackOverflow (.call nnn))

/-- 3XNN SE: skip if the register equals the immediate (R144). -/
def execSeImm (x : Nibble) (nn : Byte) (s : State) : Host.Outcome State Fault Refusal :=
  .next (s.skipIf (s.reg x == nn))

/-- 4XNN SNE: skip if the register differs from the immediate (R145). -/
def execSneImm (x : Nibble) (nn : Byte) (s : State) : Host.Outcome State Fault Refusal :=
  .next (s.skipIf (s.reg x != nn))

/-- 5XY_ SE: skip if the registers are equal (R146). -/
def execSeReg (x y _n : Nibble) (s : State) : Host.Outcome State Fault Refusal :=
  .next (s.skipIf (s.reg x == s.reg y))

/-- 9XY_ SNE: skip if the registers differ (R147). -/
def execSneReg (x y _n : Nibble) (s : State) : Host.Outcome State Fault Refusal :=
  .next (s.skipIf (s.reg x != s.reg y))

/-- BNNN JP V0: jump to V0 + NNN (R148). -/
def execJpV0 (nnn : Addr) (s : State) : Host.Outcome State Fault Refusal := .next (s.setPc (s.indexedTarget nnn))

end Sys2Proof.Machine
end

