-- ==== Sys2Proof/Machine/Framebuffer.lean ====
section
/-! DEFINITION. The Framebuffer unit: its pixel primitives (10_state.md R33), clear (41_display.md R121), the sprite blit with
its collision (R123 to R127) and the render view (10_state.md R36). -/

namespace Sys2Proof.Machine

/-- `get(c, r)`: column and row modulo the width and the height (R33). -/
def getPixel (g : Grid) (c r : Nat) : Bool :=
  (g[r % Config.screenH]'(Nat.mod_lt r (by decide)))[c % Config.screenW]'(Nat.mod_lt c (by decide))

/-- `set(c, r)`: column and row modulo the width and the height (R33). -/
def setPixel (g : Grid) (c r : Nat) (b : Bool) : Grid :=
  g.set (r % Config.screenH)
    ((g[r % Config.screenH]'(Nat.mod_lt r (by decide))).set (c % Config.screenW) b (Nat.mod_lt c (by decide)))
    (Nat.mod_lt r (by decide))

/-- `toggle(c, r)` (R33). -/
def togglePixel (g : Grid) (c r : Nat) : Grid := setPixel g c r (!getPixel g c r)

/-- `clear()`: every pixel off (R121). -/
def clearGrid : Grid := Vector.replicate Config.screenH (Vector.replicate Config.screenW false)

/-- One sprite bit at column offset `c`, which is bit `7 - c` of the byte: if it is set, OR the collision with the pixel and
toggle the pixel at column `(x + c) mod 64` (R123, R125). -/
def blitBit (x row : Nat) (b : Byte) (acc : Grid × Bool) (c : Nat) : Grid × Bool :=
  if b.getLsbD (7 - c) then
    (togglePixel acc.1 ((x + c) % Config.screenW) row, acc.2 || getPixel acc.1 ((x + c) % Config.screenW) row)
  else acc

/-- One sprite row: its 8 bits, most significant first (R123). -/
def blitRow (x row : Nat) (b : Byte) (acc : Grid × Bool) : Grid × Bool :=
  (List.range 8).foldl (blitBit x row b) acc

/-- The sprite's rows from `row` down, stopping at the first row of 32 or more (R123, R126). -/
def blitRows (x row : Nat) (bytes : List Byte) (acc : Grid × Bool) : Grid × Bool :=
  match bytes with
  | [] => acc
  | b :: rest =>
    if Config.screenH ≤ row then acc else blitRows x (row + 1) rest (blitRow x row b acc)

/-- `draw(x, y, spriteBytes)`: the new grid and the collision (R123, R124). -/
def drawSprite (g : Grid) (x y : Nat) (bytes : List Byte) : Grid × Bool := blitRows x y bytes (g, false)

/-- The render view: the 2048 pixels in row-major order, pixel (r, c) being element `r * 64 + c` (R32, R36). -/
def renderView (g : Grid) : List Bool :=
  (List.range (Config.screenW * Config.screenH)).map fun k => getPixel g (k % Config.screenW) (k / Config.screenW)

end Sys2Proof.Machine
end

