-- ==== Sys2Proof/Machine/Display.lean ====
section
/-! DEFINITION. The display instructions (41_display.md). -/

namespace Sys2Proof.Machine

/-- 00E0 CLS: every pixel off and `dirty` set, whatever was on (R120, R121, R129). -/
def execCls (_x : Nibble) (s : State) : Host.Outcome State Fault Refusal :=
  .next { s with pix := clearGrid, dirty := true }

/-- DXYN DRW: draw the N bytes at I at column Vx and row Vy, VF := collision, `dirty` set; MEM_OOB before anything is written
when N > 0 and the bytes reach past memory (R122, R129). The coordinates are read before VF is written. -/
def execDrw (x y n : Nibble) (s : State) : Host.Outcome State Fault Refusal :=
  if s.rangeInMemory n.toNat then
    let drawn := drawSprite s.pix (s.reg x).toNat (s.reg y).toNat (s.readBytes s.i.toNat n.toNat)
    .next { s.setFlag (b2u drawn.2) with pix := drawn.1, dirty := true }
  else .next (s.raise .memOob (.drw x y n))

end Sys2Proof.Machine
end

