-- ==== Sys2Proof/Machine/Index.lean ====
section
/-! DEFINITION. The index-register and memory instructions (44_index_memory.md). A range is checked whole before the first
write (20_memory.md R68), and no access changes I. -/

namespace Sys2Proof.Machine

/-- ANNN LD I (R190). -/
def execLdI (nnn : Addr) (s : State) : Host.Outcome State Fault Refusal := .next (s.setI (zextAddr nnn))

/-- FX1E ADD I: the full sum, then VF := 1 when it is 4096 or more; INDEX_OVERFLOW when it does not fit 16 bits (R191). -/
def execAddIVx (x : Nibble) (s : State) : Host.Outcome State Fault Refusal :=
  let sum := s.i.toNat + (s.reg x).toNat
  if 0xFFFF < sum then .next (s.raise .indexOverflow (.addIVx x))
  else .next ((s.setI (BitVec.ofNat 16 sum)).setFlag (beyondMemoryFlag sum))

/-- FX29 LD F: the glyph of the low nibble (R192). -/
def execLdFVx (x : Nibble) (s : State) : Host.Outcome State Fault Refusal := .next (s.setI (fontGlyphAddr (s.reg x)))

/-- FX33 LD B: the three decimal digits at I; MEM_OOB when I + 2 is past memory (R193). -/
def execLdBVx (x : Nibble) (s : State) : Host.Outcome State Fault Refusal :=
  if s.rangeInMemory 3 then .next (s.writeBytes s.i.toNat (decimalDigits (s.reg x)))
  else .next (s.raise .memOob (.ldBVx x))

/-- FX55 LD [I]: store V0 to Vx at I; MEM_OOB when I + X is past memory (R194). -/
def execLdMemVx (x : Nibble) (s : State) : Host.Outcome State Fault Refusal :=
  if s.rangeInMemory (x.toNat + 1) then .next (s.writeBytes s.i.toNat (s.regsUpTo x))
  else .next (s.raise .memOob (.ldMemVx x))

/-- FX65 LD Vx, [I]: load V0 to Vx from I; MEM_OOB when I + X is past memory (R195). -/
def execLdVxMem (x : Nibble) (s : State) : Host.Outcome State Fault Refusal :=
  if s.rangeInMemory (x.toNat + 1) then .next (s.setRegs 0 (s.readBytes s.i.toNat (x.toNat + 1)))
  else .next (s.raise .memOob (.ldVxMem x))

end Sys2Proof.Machine
end

