-- ==== Sys2Proof/Machine/KeysTimers.lean ====
section
/-! DEFINITION. The keypad and timer instructions (45_keypad_timers.md), and the two devices' own operations: the keypad
update and the timer tick (60_exceptions.md R242 to R247). -/

namespace Sys2Proof.Machine

/-- EX9E SKP: skip if the key numbered by Vx is pressed; KEY_RANGE when Vx > 15 (R210). -/
def execSkp (x : Nibble) (s : State) : Host.Outcome State Fault Refusal :=
  match s.keyPressed (s.reg x) with
  | some pressed => .next (s.skipIf pressed)
  | none => .next (s.raise .keyRange (.skp x))

/-- EXA1 SKNP: skip if the key numbered by Vx is not pressed; KEY_RANGE when Vx > 15 (R211). -/
def execSknp (x : Nibble) (s : State) : Host.Outcome State Fault Refusal :=
  match s.keyPressed (s.reg x) with
  | some pressed => .next (s.skipIf (!pressed))
  | none => .next (s.raise .keyRange (.sknp x))

/-- FX07 LD Vx, DT (R212). -/
def execLdVxDt (x : Nibble) (s : State) : Host.Outcome State Fault Refusal := .next (s.setReg x s.dt)

/-- FX15 LD DT, Vx (R213). -/
def execLdDtVx (x : Nibble) (s : State) : Host.Outcome State Fault Refusal := .next { s with dt := s.reg x }

/-- FX18 LD ST, Vx (R214). -/
def execLdStVx (x : Nibble) (s : State) : Host.Outcome State Fault Refusal := .next { s with st := s.reg x }

/-- FX0A LD Vx, K: take a release that this update found and consume it, or rewind pc by 2 so that the next Step runs the
instruction again (R215). -/
def execLdVxK (x : Nibble) (s : State) : Host.Outcome State Fault Refusal :=
  if s.justReleased then .next { s.setReg x (zextNibble s.lastReleased) with justReleased := false }
  else .next (s.setPc (s.pc - 2))

/-! ### The devices -/

/-- The keypad vector of a set of pressed keys: `new[k] <- (k in S)` (R242). -/
def keyVector (pressed : List Nat) : Vector Bool Config.numKeys := Vector.ofFn fun k => decide (k.val ∈ pressed)

/-- A release edge of key `k`: pressed in the old vector and not in the new one (R243). -/
def releaseEdge (old new : Vector Bool Config.numKeys) (k : Fin Config.numKeys) : Bool := old[k] && !new[k]

/-- The release scan over keys 0 to `scan - 1`: the last key found with a release edge (R242, R244, R245). -/
def releaseScan (scan : Nat) (old new : Vector Bool Config.numKeys) : Option (Fin Config.numKeys) :=
  (List.finRange Config.numKeys).foldl
    (fun found k => if k.val < scan && releaseEdge old new k then some k else found) none

/-- SetPressed for a set of key indices 0 to 15: scan for releases, set the two release registers, replace the vector
(R242, R246). -/
def State.setPressed (s : State) (pressed : List Nat) : State :=
  let new := keyVector pressed
  match releaseScan s.params.releaseScanKeys.val s.key new with
  | some k => { s with key := new, lastReleased := BitVec.ofNat 4 k.val, justReleased := true }
  | none => { s with key := new, justReleased := false }

/-- A timer decrement, clamped at 0 (10_state.md R31). -/
def countDown (t : Byte) : Byte := if t = 0 then 0 else t - 1

/-- Tick: both timers down by one, clamped (R247). -/
def State.tick (s : State) : State := { s with dt := countDown s.dt, st := countDown s.st }

end Sys2Proof.Machine
end

