-- ==== Sys2Proof/Machine/Cycle.lean ====
section
/-! DEFINITION. One Step of the engine: fetch, advance, decode, execute (40_step_cycle.md R100). -/

namespace Sys2Proof.Machine

/-- What a Step does once its word is fetched: pc is advanced, and the one row the word matches is executed, or nothing on a
decode miss (R102 to R104, 30_encoding.md R86). -/
def executeWord (w : Word) (s : State) : Host.Outcome State Fault Refusal :=
  match decodeWord w with
  | .ok i => exec i s.advance
  | .error _ => .next s.advance

/-- `Step(draw)` (R100). A faulted block changes nothing (R106); otherwise the Step takes its random byte, fetches, and faults
FETCH_OOB with no word when the two bytes at pc are not both in memory (R101). -/
def stepDraw (d : Byte) (s : State) : Host.Outcome State Fault Refusal :=
  match s.fault with
  | some _ => .next s
  | none =>
    match s.fetch with
    | some w => executeWord w (s.beginStep d)
    | none => .next ((s.beginStep d).enterFault .fetchOob s.pc none)

end Sys2Proof.Machine
end

