-- ==== Sys2Proof/Machine/Step.lean ====
section
/-! DEFINITION. The machine's step: the command Step with the random byte its environment gives (40_step_cycle.md R100,
60_exceptions.md R250). -/

namespace Sys2Proof.Machine

/-- One Step, with the environment's next byte, which is a free value (log entry 6). -/
def step (s : State) : Host.Outcome State Fault Refusal := stepDraw (Config.draw s.steps) s

/-- The state with the instruction word stored where step fetches next: the two bytes at pc (log entry 8). -/
def State.withFetchWord (s : State) (nbits w : Nat) : State := s.placeWord (tableWord nbits w)

end Sys2Proof.Machine
end

