-- ==== Sys2Proof/Machine/HostInterface.lean ====
section
/-! DEFINITION. The host's commands (60_exceptions.md R240): each one atomic, taking the state the one before it left
(R253). -/

namespace Sys2Proof.Machine

/-- The command table of R240. -/
inductive Command where
  /-- Reset: create the block with these parameters (R270). -/
  | reset (p : Config.Params)
  /-- Load a byte sequence (20_memory.md R66). -/
  | load (bytes : List Byte)
  /-- Step with one random byte (R100). -/
  | step (draw : Byte)
  /-- SetPressed with the full set of pressed key indices (R242). -/
  | setPressed (keys : List Nat)
  /-- Tick (R247). -/
  | tick
  /-- ReadDisplay (R36). -/
  | readDisplay
  /-- ClearDirty (R249). -/
  | clearDirty
  /-- ReadSound (R251). -/
  | readSound
  /-- ReadFault (R232). -/
  | readFault
  deriving DecidableEq, Repr

/-- What a command answers to the host (the output column of R240). -/
inductive Reply where
  /-- The command has no output. -/
  | nothing
  /-- The 2048 pixels, row-major, and `dirty` (R36). -/
  | display (pixels : List Bool) (dirty : Bool)
  /-- The value of ST (R251). -/
  | sound (value : Byte)
  /-- The value of `fault` (R232). -/
  | fault (value : Option FaultRecord)
  deriving DecidableEq, Repr

/-- The bytes a Load copies: the first 3584, the rest dropped (R66). -/
def loadedBytes (bytes : List Byte) : List Byte := bytes.take Config.progCapacity

/-- Load: refused after the first Step or a second time (70_reset_and_hazards.md R272, decision D28), else the bytes are
copied to 0x200 and up and nothing else changes (R66). -/
def State.load (s : State) (bytes : List Byte) : Host.Outcome State Fault Refusal :=
  if s.loaded || s.steps != 0 then .refused .loadAfterBoot
  else .next { s.writeBytes Config.progBase (loadedBytes bytes) with loaded := true }

/-- The effect of a command on a block that is not faulted. -/
def applyLive (c : Command) (s : State) : Host.Outcome State Fault Refusal :=
  match c with
  | .reset p => .next (State.resetWith p)
  | .load bytes => s.load bytes
  | .step d => stepDraw d s
  | .setPressed keys =>
    if keys.all (· < Config.numKeys) then .next (s.setPressed keys) else .refused .keyIndexAbove15
  | .tick => .next s.tick
  | .readDisplay => .next s
  | .clearDirty => .next { s with dirty := false }
  | .readSound => .next s
  | .readFault => .next s

/-- The effect of a command (R240). Once the block is faulted, every command but Reset leaves the state unchanged (R232). -/
def apply (c : Command) (s : State) : Host.Outcome State Fault Refusal :=
  match c, s.fault with
  | .reset p, _ => .next (State.resetWith p)
  | _, some _ => .next s
  | c, none => applyLive c s

/-- The output of a command (R240). -/
def observe (c : Command) (s : State) : Reply :=
  match c with
  | .readDisplay => .display (renderView s.pix) s.dirty
  | .readSound => .sound s.st
  | .readFault => .fault s.fault
  | .reset _ => .nothing
  | .load _ => .nothing
  | .step _ => .nothing
  | .setPressed _ => .nothing
  | .tick => .nothing
  | .clearDirty => .nothing

/-- A sequence of commands, each taking the state the one before it left, stopping at a refusal (R253). -/
def applyAll : List Command → State → Host.Outcome State Fault Refusal
  | [], s => .next s
  | c :: rest, s =>
    match apply c s with
    | .next t => applyAll rest t
    | .fault r => .fault r
    | .refused r => .refused r

end Sys2Proof.Machine
end

