-- ==== Sys2Proof/Safety.lean ====
section
/-! DEFINITION. The terms the claims are stated in: which parts of two states agree, when a rule faults (60_exceptions.md R233),
which pixels a sprite covers (41_display.md R123 to R126), the invariant, the host's protocol (R252) and the end of a run
(70_reset_and_hazards.md R282). -/

namespace Sys2Proof.Machine

/-! ### What two states agree on -/

/-- Every general register but those of `p` keeps its value. -/
def SameRegsBut (p : Nibble → Prop) (s t : State) : Prop := ∀ r, ¬ p r → t.reg r = s.reg r

/-- Every byte of memory keeps its value. -/
def SameMemory (s t : State) : Prop := ∀ a, t.readByte a = s.readByte a

/-- Every byte of memory outside the `n` bytes at `base` keeps its value. -/
def SameMemoryOutside (base n : Nat) (s t : State) : Prop :=
  ∀ a, ¬ (base ≤ a ∧ a < base + n) → t.readByte a = s.readByte a

/-- The call stack and SP keep their values. -/
def SameStack (s t : State) : Prop := t.stack = s.stack ∧ t.sp = s.sp

/-- Both timers keep their values. -/
def SameTimers (s t : State) : Prop := t.dt = s.dt ∧ t.st = s.st

/-- The pixels and `dirty` keep their values. -/
def SameDisplay (s t : State) : Prop := t.pix = s.pix ∧ t.dirty = s.dirty

/-- The keypad vector and both release registers keep their values. -/
def SameKeypad (s t : State) : Prop :=
  t.key = s.key ∧ t.lastReleased = s.lastReleased ∧ t.justReleased = s.justReleased

/-- The parameters and the model's own fields keep their values. -/
def SameOwn (s t : State) : Prop :=
  t.params = s.params ∧ t.draw = s.draw ∧ t.steps = s.steps ∧ t.loaded = s.loaded

/-- Everything but pc and the general registers of `p` keeps its value. -/
def FrameRegs (p : Nibble → Prop) (s t : State) : Prop :=
  SameRegsBut p s t ∧ SameMemory s t ∧ t.i = s.i ∧ SameStack s t ∧ SameTimers s t ∧ SameDisplay s t ∧
    SameKeypad s t ∧ t.fault = s.fault ∧ SameOwn s t

/-! ### When a rule faults -/

/-- The block after the instruction `i` faulted, seen from the state its pseudocode runs on, where pc holds `a + 2`
(40_step_cycle.md R107): pc is `a` again and the record is (code, a, w), with nothing else changed (R232). -/
def faultedBy (code : Fault) (i : Instr) (s : State) : State :=
  { s with pc := s.pc - 2, fault := some { code := code, pcAtFetch := s.pc - 2, word := some (encode i) } }

/-- The fault condition of an instruction (the table of R233), on the state its Step starts from. -/
def faultCondition (i : Instr) (s : State) : Option Fault :=
  match i with
  | .drw _ _ n => if 0 < n.toNat ∧ Config.memSize ≤ s.i.toNat + n.toNat - 1 then some .memOob else none
  | .ldBVx _ => if Config.memSize ≤ s.i.toNat + 2 then some .memOob else none
  | .ldMemVx x => if Config.memSize ≤ s.i.toNat + x.toNat then some .memOob else none
  | .ldVxMem x => if Config.memSize ≤ s.i.toNat + x.toNat then some .memOob else none
  | .call _ => if s.sp.val = 32 then some .stackOverflow else none
  | .ret _ => if s.sp.val = 0 then some .stackUnderflow else none
  | .addIVx x => if 0xFFFF < s.i.toNat + (s.reg x).toNat then some .indexOverflow else none
  | .skp x => if 15 < (s.reg x).toNat then some .keyRange else none
  | .sknp x => if 15 < (s.reg x).toNat then some .keyRange else none
  | .cls _ => none
  | .jp _ => none
  | .seImm _ _ => none
  | .sneImm _ _ => none
  | .seReg _ _ _ => none
  | .ldImm _ _ => none
  | .addImm _ _ => none
  | .ldReg _ _ => none
  | .or _ _ => none
  | .and _ _ => none
  | .xor _ _ => none
  | .addReg _ _ => none
  | .sub _ _ => none
  | .shr _ _ => none
  | .subn _ _ => none
  | .shl _ _ => none
  | .sneReg _ _ _ => none
  | .ldI _ => none
  | .jpV0 _ => none
  | .rnd _ _ => none
  | .ldVxDt _ => none
  | .ldDtVx _ => none
  | .ldStVx _ => none
  | .ldVxK _ => none
  | .ldFVx _ => none

/-- The word at pc, read big-endian (R101), whether or not pc + 1 is in memory. -/
def State.wordAtPc (s : State) : Word := wordOfBytes (s.readByte s.pc.toNat) (s.readByte (s.pc.toNat + 1))

/-- The fault record a Step of a block that is not faulted ends with, none when it does not fault (R233, R234). -/
def expectedFault (s : State) : Option FaultRecord :=
  if Config.memSize ≤ s.pc.toNat + 1 then some { code := .fetchOob, pcAtFetch := s.pc, word := none }
  else
    match decodeWord s.wordAtPc with
    | .error _ => none
    | .ok i => (faultCondition i s).map fun c => { code := c, pcAtFetch := s.pc, word := some s.wordAtPc }

/-- A block that is not faulted. -/
def State.live (s : State) : Prop := s.fault = none

/-- A fetch that takes the byte at `a` reads `b` there: as the upper half of the word when pc is `a`, as the lower half when
pc + 1 is `a` (40_step_cycle.md R101, 20_memory.md R74). -/
def State.FetchSees (u : State) (a : Nat) (b : Byte) : Prop :=
  u.pc.toNat + 1 < 4096 → ∃ w, u.fetch = some w ∧ (u.pc.toNat = a → w.toNat / 256 = b.toNat) ∧
    (u.pc.toNat + 1 = a → w.toNat % 256 = b.toNat)

/-! ### The sprite -/

/-- The sprite `bytes` drawn at column `x` and row `y` has a set bit on the pixel at column `c` and row `r`: some sprite row `k`
lands on row `y + k`, which does not wrap (R126), and some column offset `j`, bit `7 - j` of the byte, lands on column
`(x + j) mod 64` (R123, R125). -/
def SpriteCovers (x y : Nat) (bytes : List Byte) (c r : Nat) : Prop :=
  ∃ (k j : Nat) (b : Byte), bytes[k]? = some b ∧ y + k = r ∧ j < 8 ∧ (x + j) % 64 = c ∧ b.getLsbD (7 - j) = true

/-! ### The invariant -/

/-- What holds of the block at reset and after every step and command: memory is in its canonical form; pc is at most 0x10FE
and every stack entry at most 0x1000 (10_state.md R25); the last released key is one that is scanned (R38); and a
fault record names the address pc stands at, with a word unless the fetch itself faulted (R232, R233). -/
structure Inv (s : State) : Prop where
  memory : Memory.wf s.params.fontData s.mem
  pc : s.pc.toNat ≤ 0x10FE
  stack : ∀ (k : Nat) (h : k < 32), (s.stack[k]'h).toNat ≤ 0x1000
  lastReleased : s.lastReleased.toNat ≤ s.params.releaseScanKeys.val - 1
  faultAtPc : ∀ r, s.fault = some r → r.pcAtFetch = s.pc
  faultWord : ∀ r, s.fault = some r → (r.word = none ↔ r.code = .fetchOob)

/-! ### The host's protocol and the end of a run -/

/-- One SetPressed before each Step, Ticks and reads anywhere, no further Reset or Load (60_exceptions.md R252, decision D2).
The flag says whether the key state has been forwarded since the last Step. -/
def protocolFrom (fresh : Bool) : List Command → Bool
  | [] => true
  | .setPressed _ :: rest => !fresh && protocolFrom true rest
  | .step _ :: rest => fresh && protocolFrom false rest
  | .tick :: rest => protocolFrom fresh rest
  | .readDisplay :: rest => protocolFrom fresh rest
  | .clearDirty :: rest => protocolFrom fresh rest
  | .readSound :: rest => protocolFrom fresh rest
  | .readFault :: rest => protocolFrom fresh rest
  | .load _ :: _ => false
  | .reset _ :: _ => false

/-- `HostProtocol` of decision D2, a premise a claim may assume: one Load first, then cycles of SetPressed and Step. -/
def hostProtocol : List Command → Bool
  | .load _ :: rest => protocolFrom false rest
  | _ => false

/-- Every SetPressed of the list names only keys 0 to 15 (R257). -/
def keysInRange (cs : List Command) : Prop := ∀ ks, Command.setPressed ks ∈ cs → ∀ k ∈ ks, k < 16

/-- pc holds the address of a word `1NNN` that jumps to itself (R282). -/
def State.atSelfJump (s : State) : Bool := s.fetch == some (encode (.jp (BitVec.ofNat 12 s.pc.toNat)))

/-- The end of a run (R282): the first state, reached by at most `fuel` Steps alone, that stands at a self-jump. -/
def runToEnd (fuel : Nat) (s : State) : Option State :=
  if s.atSelfJump then some s
  else
    match fuel with
    | 0 => none
    | k + 1 =>
      match step s with
      | .next t => runToEnd k t
      | .fault _ => none
      | .refused _ => none

end Sys2Proof.Machine
end

