-- ==== Sys2Proof/Certificates/Slice0/Obligations.lean ====
section
/-! DEFINITION. The statements for the provers. Each docstring names the rules of spec/ it formalises. In the statements about
`exec`, pc already holds `a + 2` (40_step_cycle.md R107), so "pc unchanged" is `pc = a + 2` after the Step. -/

open Sys2Proof Sys2Proof.Machine

/-! ### Encoding and decoding (30_encoding.md) -/

/-- R81 to R84: decoding the word of an instruction gives it back, with every operand at every value, and so does decoding
its two bytes in front of any others. Every term of Instr is well formed, so there is no premise. That an ignored
nibble may hold any value is the spec's own decision D20 (log entry 12). -/
def Obligations.DecodeOfEncode : Prop :=
  ∀ i : Instr, decodeWord (encode i) = .ok i ∧
    ∀ rest, decode (bytesOfWord (encode i) ++ rest) = .ok (i, rest)

/-- R81 to R84: a word that decodes is the encoding of what it decodes to, so the decoder drops no bit, ignored nibbles
included. Ignored nibbles: the spec's own decision D20 (log entry 12). -/
def Obligations.EncodeOfDecode : Prop :=
  ∀ (w : Word) (i : Instr), decodeWord w = .ok i → encode i = w

/-- R85, and the mask and match columns of R84: a row that selects a word is the row of the instruction the word decodes
to, the row of a decoded instruction selects its word, and no two of the 34 rows select one word. R85 is derived by
the spec from R84. -/
def Obligations.DecoderFollowsTheOpcodeMap : Prop :=
  opcodeTable.length = 34 ∧
  (∀ (w : Word) (r : OpcodeRow), r ∈ opcodeTable → r.selects w = true →
    ∃ i, decodeWord w = .ok i ∧ rowOf i = r) ∧
  (∀ (w : Word) (i : Instr), decodeWord w = .ok i → rowOf i ∈ opcodeTable ∧ (rowOf i).selects w = true) ∧
  (∀ (w : Word) (r q : OpcodeRow), r ∈ opcodeTable → q ∈ opcodeTable →
    r.selects w = true → q.selects w = true → r = q)

/-- R87, without its counts: which words decode to nothing. R87 is derived by the spec from R83, R84 and R86. -/
def Obligations.UnmatchedWordsAreThoseOfTheMap : Prop :=
  ∀ w : Word, decodeWord w = .error (.unmatched w) ↔
    (fieldClass w = 0x0 ∧ ¬ (fieldY w = 0xE ∧ fieldN w = 0x0) ∧ ¬ (fieldY w = 0xE ∧ fieldN w = 0xE)) ∨
    (fieldClass w = 0x8 ∧ fieldN w ∈ [0x8#4, 0x9#4, 0xA#4, 0xB#4, 0xC#4, 0xD#4, 0xF#4]) ∨
    (fieldClass w = 0xE ∧ ¬ (fieldY w = 0x9 ∧ fieldN w = 0xE) ∧ ¬ (fieldY w = 0xA ∧ fieldN w = 0x1)) ∨
    (fieldClass w = 0xF ∧ (fieldY w, fieldN w) ∉
      [(0x0#4, 0x7#4), (0x0#4, 0xA#4), (0x1#4, 0x5#4), (0x1#4, 0x8#4), (0x1#4, 0xE#4), (0x2#4, 0x9#4),
        (0x3#4, 0x3#4), (0x5#4, 0x5#4), (0x6#4, 0x5#4)])

/-- R84: a few words written out from the pattern column decode to the instruction they stand for. The first word has a
nonzero ignored nibble (decision D20). -/
def Obligations.SampleWordsDecode : Prop :=
  decodeWord 0b0000010111100000 = .ok (.cls 5) ∧
  decodeWord 0b0001001100000000 = .ok (.jp 0x300) ∧
  decodeWord 0b1000001101000101 = .ok (.sub 3 4) ∧
  decodeWord 0b1101001000110101 = .ok (.drw 2 3 5) ∧
  decodeWord 0b1010000100100011 = .ok (.ldI 0x123) ∧
  decodeWord 0b1111010000001010 = .ok (.ldVxK 4) ∧
  decodeWord 0b1111001001010101 = .ok (.ldMemVx 2)

/-- R83: the nibble a row does not name is ignored: 0XE0 clears and 0XEE returns for every X, and 5XYN and 9XYN compare
alike for every N. (A return with SP = 0 faults and records its whole word, so it is left out here.) R83 is the spec's
own decision D20 (log entry 12). -/
def Obligations.IgnoredNibblesAreIgnored : Prop :=
  (∀ x : Nibble, decodeWord (wordXNN 0x0 x 0xE0) = .ok (.cls x)) ∧
  (∀ (x x' : Nibble) (s : State), exec (.cls x) s = exec (.cls x') s) ∧
  (∀ x : Nibble, decodeWord (wordXNN 0x0 x 0xEE) = .ok (.ret x)) ∧
  (∀ (x x' : Nibble) (s : State), s.sp.val ≠ 0 → exec (.ret x) s = exec (.ret x') s) ∧
  (∀ x y n : Nibble, decodeWord (wordXYN 0x5 x y n) = .ok (.seReg x y n)) ∧
  (∀ (x y n n' : Nibble) (s : State), exec (.seReg x y n) s = exec (.seReg x y n') s) ∧
  (∀ x y n : Nibble, decodeWord (wordXYN 0x9 x y n) = .ok (.sneReg x y n)) ∧
  (∀ (x y n n' : Nibble) (s : State), exec (.sneReg x y n) s = exec (.sneReg x y n') s)

/-! ### The step (40_step_cycle.md) and the faults (60_exceptions.md) -/

/-- R100, R102, R104: where the bytes at pc decode to `i`, the Step is exec of `i` at the state with the random byte taken
and pc advanced by 2, for every byte the environment may give. The fields draw and steps are the model's own (log
entry 6). -/
def Obligations.StepRunsTheDecodedInstruction : Prop :=
  ∀ (s : State) (i : Instr), s.fault = none → s.pc.toNat + 1 < 4096 →
    decodeWord (wordOfBytes (s.readByte s.pc.toNat) (s.readByte (s.pc.toNat + 1))) = .ok i →
    i.wellFormed = true →
    step s = exec i { s with draw := Config.draw s.steps, steps := s.steps + 1, pc := s.pc + 2 } ∧
    ∀ d, stepDraw d s = exec i { s with draw := d, steps := s.steps + 1, pc := s.pc + 2 }

/-- R86: a Step whose word matches no row advances pc by 2 and changes nothing else. The random byte taken and the count of Steps
are the model's own fields (log entry 6). -/
def Obligations.DecodeMissOnlyAdvancesPc : Prop :=
  ∀ (s : State) (d : Byte), s.fault = none → s.pc.toNat + 1 < 4096 →
    (∀ r ∈ opcodeTable, r.selects (wordOfBytes (s.readByte s.pc.toNat) (s.readByte (s.pc.toNat + 1))) = false) →
    stepDraw d s = .next { s with draw := d, steps := s.steps + 1, pc := s.pc + 2 }

/-- R101: the fetch is the big-endian word of the two bytes at pc as memory stands, and where pc + 1 is past memory the
Step records FETCH_OOB with the fetch address and no word, and nothing else happens. The fault is the spec's own
decision D10 (log entry 9). -/
def Obligations.FetchReadsBigEndianOrFaults : Prop :=
  (∀ s : State, s.pc.toNat + 1 < 4096 → ∃ w : Word, s.fetch = some w ∧
    w.toNat = (s.readByte s.pc.toNat).toNat * 256 + (s.readByte (s.pc.toNat + 1)).toNat) ∧
  (∀ (s : State) (d : Byte), s.fault = none → 4096 ≤ s.pc.toNat + 1 →
    stepDraw d s = .next { s with
      draw := d, steps := s.steps + 1,
      fault := some { code := .fetchOob, pcAtFetch := s.pc, word := none } })

/-- R86, R106, R230: every instruction and every Step answers a next state, in every state: no instruction is refused and
the block is never stuck. That a fault is a next state is the model's reading of decision D12 (log entry 9). -/
def Obligations.EveryStepAnswersANextState : Prop :=
  (∀ (i : Instr) (s : State), ∃ t, exec i s = .next t) ∧ ∀ s : State, ∃ t, step s = .next t

/-- R233 and R234: a Step of a block that is not faulted ends with exactly the fault record the table of R233 gives: the
fetch is checked first, each instruction has its one condition, and where none holds no fault is recorded. The fault
conditions are the spec's own decisions D10, D11, D13, D14 and D15 (log entry 9). -/
def Obligations.FaultRecordedExactlyWhenTheTableSays : Prop :=
  (∀ (s : State) (d : Byte), s.fault = none → ∃ t, stepDraw d s = .next t ∧ t.fault = expectedFault s) ∧
  [Fault.fetchOob, .memOob, .stackOverflow, .stackUnderflow, .indexOverflow, .keyRange].map Fault.code = [1, 2, 3, 4, 5, 6]

/-- R232 and R106: a Step that faults is discarded whole: the only change is the fault record, which names the Step's
address (the random byte and the count of Steps are the model's own); the host reads the record, every later command
leaves the state unchanged, and only Reset clears it. Fault entry is the spec's own decision D12 (log entry 9). -/
def Obligations.FaultEntryDiscardsTheStepAndFreezes : Prop :=
  (∀ (s t : State) (d : Byte), s.fault = none → stepDraw d s = .next t → t.fault ≠ none →
    t = { s with draw := d, steps := s.steps + 1, fault := t.fault } ∧
    ∀ r, t.fault = some r → r.pcAtFetch = s.pc) ∧
  (∀ s : State, s.fault ≠ none →
    step s = .next s ∧ (∀ c : Command, (∀ p, c ≠ .reset p) → apply c s = .next s) ∧
    (∀ p, apply (.reset p) s = .next (State.resetWith p)) ∧ observe .readFault s = .fault s.fault)

/-- R74: a byte stored by FX55 or FX33 is what any fetch of its address reads while memory stays so, byte by byte, as either
half of the fetched word, the other half stored or not; and where both halves were stored, the whole word. R74 is the spec's
own decision D31 (log entry 20). -/
def Obligations.StoresAreSeenByTheNextFetch : Prop :=
  (∀ (s t u : State) (x : Nibble) (k : Nat), exec (.ldMemVx x) s = .next t → s.i.toNat + x.toNat < 4096 →
    k ≤ x.toNat → SameMemory t u → u.FetchSees (s.i.toNat + k) (s.reg (BitVec.ofNat 4 k))) ∧
  (∀ (s t u : State) (x : Nibble), exec (.ldBVx x) s = .next t → s.i.toNat + 2 < 4096 → SameMemory t u →
    u.FetchSees s.i.toNat (BitVec.ofNat 8 ((s.reg x).toNat / 100)) ∧
    u.FetchSees (s.i.toNat + 1) (BitVec.ofNat 8 ((s.reg x).toNat / 10 % 10)) ∧
    u.FetchSees (s.i.toNat + 2) (BitVec.ofNat 8 ((s.reg x).toNat % 10))) ∧
  (∀ (s t : State) (x : Nibble) (k : Nat), exec (.ldMemVx x) s = .next t → s.i.toNat + x.toNat < 4096 →
    k + 1 ≤ x.toNat → t.pc.toNat = s.i.toNat + k →
    t.fetch = some (wordOfBytes (s.reg (BitVec.ofNat 4 k)) (s.reg (BitVec.ofNat 4 (k + 1))))) ∧
  (∀ (s t : State) (x : Nibble), exec (.ldBVx x) s = .next t → s.i.toNat + 2 < 4096 →
    (t.pc = s.i →
      t.fetch = some (BitVec.ofNat 16 ((s.reg x).toNat / 100 * 256 + (s.reg x).toNat / 10 % 10))) ∧
    (t.pc = s.i + 1 →
      t.fetch = some (BitVec.ofNat 16 ((s.reg x).toNat / 10 % 10 * 256 + (s.reg x).toNat % 10))))

/-! ### Display (41_display.md) -/

/-- R120 and R121: CLS turns every pixel off and sets `dirty`, and touches nothing else. That this holds for every X nibble is the
spec's own decision D20 (log entry 12), and that `dirty` is set whatever changed is R129's reading of the source
(90_conflicts.md C4, log entry 18). -/
def Obligations.ClearTurnsEveryPixelOff : Prop :=
  ∀ (x : Nibble) (s : State), encode (.cls x) &&& 0xF0FF = 0x00E0 ∧
    ∃ t, exec (.cls x) s = .next t ∧ (∀ c r, getPixel t.pix c r = false) ∧ t.dirty = true ∧
      t = { s with pix := t.pix, dirty := t.dirty }

/-- R122: DRW draws the N bytes at I at column Vx and row Vy, both read before VF is written, and writes the collision to
VF and sets `dirty`; where N > 0 and I + N - 1 is past memory it faults MEM_OOB and changes nothing else. The flag's 1
and 0 are the spec's own decision D19 and the fault is D11 (log entries 9 and 18). -/
def Obligations.DrawInstructionDrawsAndReportsCollision : Prop :=
  ∀ (x y n : Nibble) (s : State), encode (.drw x y n) &&& 0xF000 = 0xD000 ∧
    (¬ (0 < n.toNat ∧ 4096 ≤ s.i.toNat + n.toNat - 1) →
      ∃ t, exec (.drw x y n) s = .next t ∧
        t.pix = (drawSprite s.pix (s.reg x).toNat (s.reg y).toNat
          ((List.range n.toNat).map fun k => s.readByte (s.i.toNat + k))).1 ∧
        (t.reg 15).toNat = (if (drawSprite s.pix (s.reg x).toNat (s.reg y).toNat
          ((List.range n.toNat).map fun k => s.readByte (s.i.toNat + k))).2 = true then 1 else 0) ∧
        SameRegsBut (· = 15) s t ∧ t.dirty = true ∧
        t = { s with x := t.x, pix := t.pix, dirty := t.dirty }) ∧
    (0 < n.toNat ∧ 4096 ≤ s.i.toNat + n.toNat - 1 →
      exec (.drw x y n) s = .next (faultedBy .memOob (.drw x y n) s))

/-- R123 to R126: a draw toggles exactly the pixels under the sprite's set bits, columns wrapping modulo 64 within their
row and rows of 32 or more not drawn, and its collision is true exactly when one of those pixels was on before the
draw. That a start row of 32 or more draws nothing is the spec's own decision D18 (log entry 17). -/
def Obligations.SpriteDrawTogglesCoveredPixels : Prop :=
  ∀ (g : Grid) (x y : Nat) (bytes : List Byte),
    (∀ c r, c < 64 → r < 32 →
      (SpriteCovers x y bytes c r → getPixel (drawSprite g x y bytes).1 c r = !getPixel g c r) ∧
      (¬ SpriteCovers x y bytes c r → getPixel (drawSprite g x y bytes).1 c r = getPixel g c r)) ∧
    ((drawSprite g x y bytes).2 = true ↔
      ∃ c r, c < 64 ∧ r < 32 ∧ SpriteCovers x y bytes c r ∧ getPixel g c r = true)

/-- R128: two draws of the same bytes at the same place restore the grid; the second collides exactly when some drawn
bit's pixel was off before the first; on a blank grid the first does not collide and the second does if any bit is
drawn. R128 is derived by the spec from R123 and R124 (90_conflicts.md C3). -/
def Obligations.DrawingTwiceRestoresTheGrid : Prop :=
  ∀ (g : Grid) (x y : Nat) (bytes : List Byte),
    (drawSprite (drawSprite g x y bytes).1 x y bytes).1 = g ∧
    ((drawSprite (drawSprite g x y bytes).1 x y bytes).2 = true ↔
      ∃ c r, c < 64 ∧ r < 32 ∧ SpriteCovers x y bytes c r ∧ getPixel g c r = false) ∧
    (drawSprite clearGrid x y bytes).2 = false ∧
    ((∃ c r, c < 64 ∧ r < 32 ∧ SpriteCovers x y bytes c r) →
      (drawSprite (drawSprite clearGrid x y bytes).1 x y bytes).2 = true)

/-- R127: a sprite of no bytes, or of bytes that are all 0, changes no pixel and reports no collision. -/
def Obligations.BlankSpriteDrawsNothing : Prop :=
  ∀ (g : Grid) (x y : Nat) (bytes : List Byte), (∀ b ∈ bytes, b = 0) → drawSprite g x y bytes = (g, false)

/-! ### Control flow (42_control_flow.md) -/

/-- R141: RET lowers SP and takes pc from the entry it then points at, which keeps its value; with SP = 0 it faults
STACK_UNDERFLOW. The fault is the spec's own decision D13 (log entry 9). -/
def Obligations.ReturnPopsTheReturnAddress : Prop :=
  ∀ (x : Nibble) (s : State), encode (.ret x) &&& 0xF0FF = 0x00EE ∧
    (∀ (k : Nat) (h : k < 32), s.sp.val = k + 1 →
      ∃ t, exec (.ret x) s = .next t ∧ t.sp.val = k ∧ t.pc = s.stack[k]'h ∧ t = { s with sp := t.sp, pc := t.pc }) ∧
    (s.sp.val = 0 → exec (.ret x) s = .next (faultedBy .stackUnderflow (.ret x) s))

/-- R143: CALL stores pc, which is the address after the call, in the entry at SP, raises SP and jumps; with SP = 32 it
faults STACK_OVERFLOW. The fault is the spec's own decision D13 (log entry 9). -/
def Obligations.CallPushesTheReturnAddress : Prop :=
  ∀ (nnn : Addr) (s : State), encode (.call nnn) &&& 0xF000 = 0x2000 ∧
    (∀ h : s.sp.val < 32,
      ∃ t, exec (.call nnn) s = .next t ∧ t.stack[s.sp.val]'h = s.pc ∧
        (∀ (k : Nat) (hk : k < 32), k ≠ s.sp.val → t.stack[k]'hk = s.stack[k]'hk) ∧
        t.sp.val = s.sp.val + 1 ∧ t.pc.toNat = nnn.toNat ∧
        t = { s with stack := t.stack, sp := t.sp, pc := t.pc }) ∧
    (s.sp.val = 32 → exec (.call nnn) s = .next (faultedBy .stackOverflow (.call nnn) s))

/-- R143 and R149: the return that matches a call, from wherever the subroutine ends with the stack as the call left it,
resumes after the call with SP as before it. R149 is derived by the spec. -/
def Obligations.ReturnAfterCallResumes : Prop :=
  ∀ (nnn : Addr) (x : Nibble) (s t u : State), s.sp.val < 32 → exec (.call nnn) s = .next t →
    u.stack = t.stack → u.sp = t.sp → ∃ v, exec (.ret x) u = .next v ∧ v.pc = s.pc ∧ v.sp = s.sp

/-- R142 and R148: JP sets pc to NNN, and JP V0 to V0 + NNN, not cut to 12 bits and at most 0x10FE; neither changes
anything else. That the sum is not cut to 12 bits is the spec's own decision D36 (log entry 19). -/
def Obligations.JumpsSetPc : Prop :=
  ∀ (nnn : Addr) (s : State),
    encode (.jp nnn) &&& 0xF000 = 0x1000 ∧ encode (.jpV0 nnn) &&& 0xF000 = 0xB000 ∧
    (∃ t, exec (.jp nnn) s = .next t ∧ t.pc.toNat = nnn.toNat ∧ t = { s with pc := t.pc }) ∧
    (∃ t, exec (.jpV0 nnn) s = .next t ∧ t.pc.toNat = (s.reg 0).toNat + nnn.toNat ∧ t.pc.toNat ≤ 0x10FE ∧
      t = { s with pc := t.pc })

/-- R144 to R147, with R140's skip: the four comparisons add 2 to pc exactly when their condition holds, and change nothing
else. That N is ignored is the spec's own decision D20 (log entry 12). -/
def Obligations.ComparisonsSkip : Prop :=
  ∀ (x y n : Nibble) (nn : Byte) (s : State),
    encode (.seImm x nn) &&& 0xF000 = 0x3000 ∧ encode (.sneImm x nn) &&& 0xF000 = 0x4000 ∧
    encode (.seReg x y n) &&& 0xF000 = 0x5000 ∧ encode (.sneReg x y n) &&& 0xF000 = 0x9000 ∧
    (exec (.seImm x nn) s = .next { s with pc := if (s.reg x).toNat = nn.toNat then s.pc + 2 else s.pc }) ∧
    (exec (.sneImm x nn) s = .next { s with pc := if (s.reg x).toNat = nn.toNat then s.pc else s.pc + 2 }) ∧
    (exec (.seReg x y n) s = .next { s with pc := if (s.reg x).toNat = (s.reg y).toNat then s.pc + 2 else s.pc }) ∧
    (exec (.sneReg x y n) s = .next { s with pc := if (s.reg x).toNat = (s.reg y).toNat then s.pc else s.pc + 2 })

/-! ### Registers and arithmetic (43_register_alu.md) -/

/-- R160 and R161: LD writes the immediate; ADD adds it modulo 256 and writes no flag. Only Vx changes. -/
def Obligations.ImmediateLoadAndAdd : Prop :=
  ∀ (x : Nibble) (nn : Byte) (s : State),
    encode (.ldImm x nn) &&& 0xF000 = 0x6000 ∧ encode (.addImm x nn) &&& 0xF000 = 0x7000 ∧
    (∃ t, exec (.ldImm x nn) s = .next t ∧ (∀ r, t.reg r = if r = x then nn else s.reg r) ∧ t = { s with x := t.x }) ∧
    (∃ t, exec (.addImm x nn) s = .next t ∧
      (∀ r, (t.reg r).toNat = if r = x then ((s.reg x).toNat + nn.toNat) % 256 else (s.reg r).toNat) ∧
      t = { s with x := t.x })

/-- R162 to R165: the copy and the three bitwise operations, bit by bit. Only Vx changes, and no flag is written. -/
def Obligations.CopyAndBitwiseOperations : Prop :=
  ∀ (x y : Nibble) (s : State),
    encode (.ldReg x y) &&& 0xF00F = 0x8000 ∧ encode (.or x y) &&& 0xF00F = 0x8001 ∧
    encode (.and x y) &&& 0xF00F = 0x8002 ∧ encode (.xor x y) &&& 0xF00F = 0x8003 ∧
    (∃ t, exec (.ldReg x y) s = .next t ∧ t.reg x = s.reg y ∧ SameRegsBut (· = x) s t ∧ t = { s with x := t.x }) ∧
    (∃ t, exec (.or x y) s = .next t ∧
      (∀ k < 8, (t.reg x).getLsbD k = ((s.reg x).getLsbD k || (s.reg y).getLsbD k)) ∧
      SameRegsBut (· = x) s t ∧ t = { s with x := t.x }) ∧
    (∃ t, exec (.and x y) s = .next t ∧
      (∀ k < 8, (t.reg x).getLsbD k = ((s.reg x).getLsbD k && (s.reg y).getLsbD k)) ∧
      SameRegsBut (· = x) s t ∧ t = { s with x := t.x }) ∧
    (∃ t, exec (.xor x y) s = .next t ∧
      (∀ k < 8, (t.reg x).getLsbD k = ((s.reg x).getLsbD k != (s.reg y).getLsbD k)) ∧
      SameRegsBut (· = x) s t ∧ t = { s with x := t.x })

/-- R166: ADD writes the sum modulo 256 and then the carry to VF. That the carry stays when X = 15 is the spec's own decision D21
(R173, log entry 16). -/
def Obligations.AddWritesSumThenCarry : Prop :=
  ∀ (x y : Nibble) (s : State), encode (.addReg x y) &&& 0xF00F = 0x8004 ∧
    ∃ t, exec (.addReg x y) s = .next t ∧
      (∀ r, (t.reg r).toNat =
        if r = 15 then (if 255 < (s.reg x).toNat + (s.reg y).toNat then 1 else 0)
        else if r = x then ((s.reg x).toNat + (s.reg y).toNat) % 256
        else (s.reg r).toNat) ∧
      t = { s with x := t.x }

/-- R167 and R169: SUB and SUBN write the difference modulo 256 and then VF, 0 if the subtraction borrows and 1 if not. That the
flag and not the difference stays when X = 15 is the spec's own decision D21 (R173, log entry 16). -/
def Obligations.SubtractionsWriteDifferenceThenNotBorrow : Prop :=
  ∀ (x y : Nibble) (s : State),
    encode (.sub x y) &&& 0xF00F = 0x8005 ∧ encode (.subn x y) &&& 0xF00F = 0x8007 ∧
    (∃ t, exec (.sub x y) s = .next t ∧
      (∀ r, (t.reg r).toNat =
        if r = 15 then (if (s.reg x).toNat < (s.reg y).toNat then 0 else 1)
        else if r = x then
          (if (s.reg x).toNat < (s.reg y).toNat then (s.reg x).toNat + 256 - (s.reg y).toNat
            else (s.reg x).toNat - (s.reg y).toNat)
        else (s.reg r).toNat) ∧
      t = { s with x := t.x }) ∧
    (∃ t, exec (.subn x y) s = .next t ∧
      (∀ r, (t.reg r).toNat =
        if r = 15 then (if (s.reg y).toNat < (s.reg x).toNat then 0 else 1)
        else if r = x then
          (if (s.reg y).toNat < (s.reg x).toNat then (s.reg y).toNat + 256 - (s.reg x).toNat
            else (s.reg y).toNat - (s.reg x).toNat)
        else (s.reg r).toNat) ∧
      t = { s with x := t.x })

/-- R168: SHR writes bit 0 to VF and then halves Vx. That with X = 15 the flag itself is halved, so that VF ends as 0, is the
spec's own decision D21 (R173, log entry 16). -/
def Obligations.ShiftRightWritesLowBitThenHalves : Prop :=
  ∀ (x y : Nibble) (s : State), encode (.shr x y) &&& 0xF00F = 0x8006 ∧
    ∃ t, exec (.shr x y) s = .next t ∧
      (∀ r, (t.reg r).toNat =
        if r = x then (if x = 15 then 0 else (s.reg x).toNat / 2)
        else if r = 15 then (s.reg x).toNat % 2
        else (s.reg r).toNat) ∧
      t = { s with x := t.x }

/-- R170: SHL writes bit `SHL_FLAG_BIT` (3 on this hardware, log entry 2; here any value of the parameter) to VF and then
doubles Vx modulo 256. The value 3 is the spec's own decision D22, and that with X = 15 the flag itself is doubled is its
decision D21 (R173, log entry 16). -/
def Obligations.ShiftLeftWritesFlagBitThenDoubles : Prop :=
  Config.defaultParams.shlFlagBit.val = 3 ∧
  ∀ (x y : Nibble) (s : State), encode (.shl x y) &&& 0xF00F = 0x800E ∧
    ∃ t, exec (.shl x y) s = .next t ∧
      (∀ r, (t.reg r).toNat =
        if r = x then
          (if x = 15 then (s.reg x).toNat / 2 ^ s.params.shlFlagBit.val % 2 * 2 else (s.reg x).toNat * 2 % 256)
        else if r = 15 then (s.reg x).toNat / 2 ^ s.params.shlFlagBit.val % 2
        else (s.reg r).toNat) ∧
      t = { s with x := t.x }

/-- R171: RND writes the Step's random byte masked by the immediate, bit by bit, whatever the byte is. The byte is free by
decision D24 (log entry 6). -/
def Obligations.RandomIsTheDrawMasked : Prop :=
  ∀ (x : Nibble) (nn d : Byte) (s : State), encode (.rnd x nn) &&& 0xF000 = 0xC000 ∧
    ∃ t, exec (.rnd x nn) { s with draw := d } = .next t ∧
      (∀ k < 8, (t.reg x).getLsbD k = (d.getLsbD k && nn.getLsbD k)) ∧
      SameRegsBut (· = x) s t ∧ t = { s with x := t.x, draw := d }

/-- R173: what VF ends as when the destination is VF and the instruction also writes a flag; and with another destination
that is VF the result itself stays. R173 is the spec's own decision D21 (log entry 16). -/
def Obligations.LastWriteToVfStays : Prop :=
  ∀ (y : Nibble) (nn : Byte) (s : State),
    (∃ t, exec (.addReg 15 y) s = .next t ∧
      (t.reg 15).toNat = if 255 < (s.reg 15).toNat + (s.reg y).toNat then 1 else 0) ∧
    (∃ t, exec (.sub 15 y) s = .next t ∧ (t.reg 15).toNat = if (s.reg 15).toNat < (s.reg y).toNat then 0 else 1) ∧
    (∃ t, exec (.subn 15 y) s = .next t ∧ (t.reg 15).toNat = if (s.reg y).toNat < (s.reg 15).toNat then 0 else 1) ∧
    (∃ t, exec (.shr 15 y) s = .next t ∧ t.reg 15 = 0) ∧
    (∃ t, exec (.shl 15 y) s = .next t ∧
      (t.reg 15).toNat = (s.reg 15).toNat / 2 ^ s.params.shlFlagBit.val % 2 * 2) ∧
    (∃ t, exec (.ldReg 15 y) s = .next t ∧ t.reg 15 = s.reg y) ∧
    (∃ t, exec (.or 15 y) s = .next t ∧ t.reg 15 = s.reg 15 ||| s.reg y) ∧
    (∃ t, exec (.and 15 y) s = .next t ∧ t.reg 15 = s.reg 15 &&& s.reg y) ∧
    (∃ t, exec (.xor 15 y) s = .next t ∧ t.reg 15 = s.reg 15 ^^^ s.reg y) ∧
    (∃ t, exec (.ldImm 15 nn) s = .next t ∧ t.reg 15 = nn) ∧
    (∃ t, exec (.addImm 15 nn) s = .next t ∧ (t.reg 15).toNat = ((s.reg 15).toNat + nn.toNat) % 256) ∧
    (∃ t, exec (.rnd 15 nn) s = .next t ∧ t.reg 15 = s.draw &&& nn) ∧
    (∃ t, exec (.ldVxDt 15) s = .next t ∧ t.reg 15 = s.dt)

/-! ### Index and memory (44_index_memory.md) -/

/-- R190 and R192: LD I writes NNN; LD F writes the address of the glyph of the register's low nibble. Only I changes. -/
def Obligations.IndexLoads : Prop :=
  ∀ (nnn : Addr) (x : Nibble) (s : State),
    encode (.ldI nnn) &&& 0xF000 = 0xA000 ∧ encode (.ldFVx x) &&& 0xF0FF = 0xF029 ∧
    (∃ t, exec (.ldI nnn) s = .next t ∧ t.i.toNat = nnn.toNat ∧ t = { s with i := t.i }) ∧
    (∃ t, exec (.ldFVx x) s = .next t ∧ t.i.toNat = 0x050 + (s.reg x).toNat % 16 * 5 ∧ t = { s with i := t.i })

/-- R191: ADD I adds the register to I and then writes VF, 1 when the new I is 4096 or more; a sum above 0xFFFF faults
INDEX_OVERFLOW. The fault is the spec's own decision D14 (log entry 9). -/
def Obligations.AddIndexFlagsBeyondMemory : Prop :=
  ∀ (x : Nibble) (s : State), encode (.addIVx x) &&& 0xF0FF = 0xF01E ∧
    (s.i.toNat + (s.reg x).toNat ≤ 0xFFFF →
      ∃ t, exec (.addIVx x) s = .next t ∧ t.i.toNat = s.i.toNat + (s.reg x).toNat ∧
        (t.reg 15).toNat = (if 4096 ≤ s.i.toNat + (s.reg x).toNat then 1 else 0) ∧
        SameRegsBut (· = 15) s t ∧ t = { s with i := t.i, x := t.x }) ∧
    (0xFFFF < s.i.toNat + (s.reg x).toNat →
      exec (.addIVx x) s = .next (faultedBy .indexOverflow (.addIVx x) s))

/-- R193: LD B stores the hundreds, tens and ones at I, I + 1 and I + 2, and nothing anywhere else; where I + 2 is past
memory it faults MEM_OOB. The fault is the spec's own decision D11 (log entry 9). -/
def Obligations.DecimalDigitsAreStored : Prop :=
  ∀ (x : Nibble) (s : State), encode (.ldBVx x) &&& 0xF0FF = 0xF033 ∧
    (s.i.toNat + 2 < 4096 →
      ∃ t, exec (.ldBVx x) s = .next t ∧
        (∀ a, (t.readByte a).toNat =
          if a = s.i.toNat then (s.reg x).toNat / 100
          else if a = s.i.toNat + 1 then (s.reg x).toNat / 10 % 10
          else if a = s.i.toNat + 2 then (s.reg x).toNat % 10
          else (s.readByte a).toNat) ∧
        t = { s with mem := t.mem }) ∧
    (4096 ≤ s.i.toNat + 2 → exec (.ldBVx x) s = .next (faultedBy .memOob (.ldBVx x) s))

/-- R194: LD [I], Vx stores V0 to Vx at I upward, and nothing anywhere else; where I + X is past memory it faults MEM_OOB.
The fault is the spec's own decision D11 (log entry 9). -/
def Obligations.RegistersAreStored : Prop :=
  ∀ (x : Nibble) (s : State), encode (.ldMemVx x) &&& 0xF0FF = 0xF055 ∧
    (s.i.toNat + x.toNat < 4096 →
      ∃ t, exec (.ldMemVx x) s = .next t ∧
        (∀ a, t.readByte a =
          if s.i.toNat ≤ a ∧ a ≤ s.i.toNat + x.toNat then s.reg (BitVec.ofNat 4 (a - s.i.toNat)) else s.readByte a) ∧
        t = { s with mem := t.mem }) ∧
    (4096 ≤ s.i.toNat + x.toNat → exec (.ldMemVx x) s = .next (faultedBy .memOob (.ldMemVx x) s))

/-- R195: LD Vx, [I] loads V0 to Vx from I upward, and changes nothing else; where I + X is past memory it faults MEM_OOB.
The fault is the spec's own decision D11 (log entry 9). -/
def Obligations.RegistersAreLoaded : Prop :=
  ∀ (x : Nibble) (s : State), encode (.ldVxMem x) &&& 0xF0FF = 0xF065 ∧
    (s.i.toNat + x.toNat < 4096 →
      ∃ t, exec (.ldVxMem x) s = .next t ∧
        (∀ r, t.reg r = if r.toNat ≤ x.toNat then s.readByte (s.i.toNat + r.toNat) else s.reg r) ∧
        t = { s with x := t.x }) ∧
    (4096 ≤ s.i.toNat + x.toNat → exec (.ldVxMem x) s = .next (faultedBy .memOob (.ldVxMem x) s))

/-! ### Keypad and timers (45_keypad_timers.md) -/

/-- R210 and R211: SKP skips exactly when the key numbered by Vx is pressed and SKNP exactly when it is not; a register
above 15 faults KEY_RANGE. The fault is the spec's own decision D15 (log entry 9). -/
def Obligations.KeyTestsSkip : Prop :=
  ∀ (x : Nibble) (s : State),
    encode (.skp x) &&& 0xF0FF = 0xE09E ∧ encode (.sknp x) &&& 0xF0FF = 0xE0A1 ∧
    (∀ h : (s.reg x).toNat < 16,
      exec (.skp x) s = .next { s with pc := if s.key[(s.reg x).toNat]'h = true then s.pc + 2 else s.pc } ∧
      exec (.sknp x) s = .next { s with pc := if s.key[(s.reg x).toNat]'h = true then s.pc else s.pc + 2 }) ∧
    (15 < (s.reg x).toNat →
      exec (.skp x) s = .next (faultedBy .keyRange (.skp x) s) ∧
      exec (.sknp x) s = .next (faultedBy .keyRange (.sknp x) s))

/-- R212 to R214: the three timer transfers, each changing one register or timer and nothing else. -/
def Obligations.TimerTransfers : Prop :=
  ∀ (x : Nibble) (s : State),
    encode (.ldVxDt x) &&& 0xF0FF = 0xF007 ∧ encode (.ldDtVx x) &&& 0xF0FF = 0xF015 ∧
    encode (.ldStVx x) &&& 0xF0FF = 0xF018 ∧
    (∃ t, exec (.ldVxDt x) s = .next t ∧ (∀ r, t.reg r = if r = x then s.dt else s.reg r) ∧ t = { s with x := t.x }) ∧
    (∃ t, exec (.ldDtVx x) s = .next t ∧ t.dt = s.reg x ∧ t = { s with dt := t.dt }) ∧
    (∃ t, exec (.ldStVx x) s = .next t ∧ t.st = s.reg x ∧ t = { s with st := t.st })

/-- R215: with a release to take, LD Vx, K stores its key and consumes it, so that a second one waits; with none it puts
pc back on itself and changes nothing else. That the release is consumed is the spec's own decision D16 (log entry
15). -/
def Obligations.KeyWaitTakesAReleaseOrRewinds : Prop :=
  ∀ (x : Nibble) (s : State), encode (.ldVxK x) &&& 0xF0FF = 0xF00A ∧
    (s.justReleased = true →
      ∃ t, exec (.ldVxK x) s = .next t ∧
        (∀ r, (t.reg r).toNat = if r = x then s.lastReleased.toNat else (s.reg r).toNat) ∧ t.justReleased = false ∧
        t = { s with x := t.x, justReleased := t.justReleased } ∧
        ∀ x', exec (.ldVxK x') t = .next { t with pc := t.pc - 2 }) ∧
    (s.justReleased = false → exec (.ldVxK x) s = .next { s with pc := s.pc - 2 })

/-! ### Which instructions write what (10_state.md, 40_step_cycle.md R105) -/

/-- R21: no instruction writes VF but the seven flag writers and those whose ordinary destination is V15 or the block load
up to V15. It states what R21 excludes, not what R21 lists. -/
def Obligations.OnlyFlagWritersChangeVf : Prop :=
  ∀ (i : Instr) (s t : State), exec i s = .next t →
    (rowOf i).mnemonic ∉ ["ADD_REG", "SUB", "SUBN", "SHR", "SHL", "DRW", "ADD_I_VX"] →
    ((rowOf i).mnemonic ∈ ["LD_IMM", "ADD_IMM", "LD_REG", "OR", "AND", "XOR", "RND", "LD_VX_DT", "LD_VX_K", "LD_VX_MEM"] →
      fieldX (encode i) ≠ 15) →
    t.reg 15 = s.reg 15

/-- R105 with R23, R27, R29, R30, R35, R37 to R39 and R70: which instructions change memory, I, the stack, each timer, the
display and the release flag, and that none changes the keypad vector, the last released key or the parameters. R105
is derived by the spec from R104. -/
def Obligations.EachPartHasItsOnlyWriters : Prop :=
  ∀ (i : Instr) (s t : State), exec i s = .next t →
    ((rowOf i).mnemonic ∉ ["LD_B_VX", "LD_MEM_VX"] → t.mem = s.mem) ∧
    ((rowOf i).mnemonic ∉ ["LD_I", "ADD_I_VX", "LD_F_VX"] → t.i = s.i) ∧
    ((rowOf i).mnemonic ∉ ["CALL", "RET"] → t.sp = s.sp) ∧
    ((rowOf i).mnemonic ≠ "CALL" → t.stack = s.stack) ∧
    ((rowOf i).mnemonic ≠ "LD_DT_VX" → t.dt = s.dt) ∧
    ((rowOf i).mnemonic ≠ "LD_ST_VX" → t.st = s.st) ∧
    ((rowOf i).mnemonic ∉ ["CLS", "DRW"] → t.pix = s.pix ∧ t.dirty = s.dirty) ∧
    ((rowOf i).mnemonic ≠ "LD_VX_K" → t.justReleased = s.justReleased) ∧
    t.key = s.key ∧ t.lastReleased = s.lastReleased ∧ t.params = s.params

/-! ### Frames -/

/-- R105: what the instructions that write only Vx, or Vx and VF, leave unchanged; pc stays as the Step advanced it. R105 is
derived by the spec from R104. -/
def Obligations.FrameOfRegisterInstructions : Prop :=
  (∀ (x y : Nibble) (nn : Byte) (s t : State),
    exec (.ldImm x nn) s = .next t ∨ exec (.addImm x nn) s = .next t ∨ exec (.ldReg x y) s = .next t ∨
      exec (.or x y) s = .next t ∨ exec (.and x y) s = .next t ∨ exec (.xor x y) s = .next t ∨
      exec (.rnd x nn) s = .next t ∨ exec (.ldVxDt x) s = .next t →
    FrameRegs (· = x) s t ∧ t.pc = s.pc) ∧
  (∀ (x y : Nibble) (s t : State),
    exec (.addReg x y) s = .next t ∨ exec (.sub x y) s = .next t ∨ exec (.subn x y) s = .next t ∨
      exec (.shr x y) s = .next t ∨ exec (.shl x y) s = .next t →
    FrameRegs (fun r => r = x ∨ r = 15) s t ∧ t.pc = s.pc)

/-- R105: jumps and skips leave everything but pc unchanged; a return leaves the stack entries too, and a call the entries
but the one at SP. R105 is derived by the spec from R104. -/
def Obligations.FrameOfControlFlow : Prop :=
  (∀ (x y n : Nibble) (nn : Byte) (nnn : Addr) (s t : State),
    exec (.jp nnn) s = .next t ∨ exec (.jpV0 nnn) s = .next t ∨ exec (.seImm x nn) s = .next t ∨
      exec (.sneImm x nn) s = .next t ∨ exec (.seReg x y n) s = .next t ∨ exec (.sneReg x y n) s = .next t ∨
      ((s.reg x).toNat ≤ 15 ∧ (exec (.skp x) s = .next t ∨ exec (.sknp x) s = .next t)) →
    FrameRegs (fun _ => False) s t) ∧
  (∀ (x : Nibble) (nnn : Addr) (s t : State),
    (s.sp.val ≠ 0 ∧ exec (.ret x) s = .next t) ∨ (s.sp.val ≠ 32 ∧ exec (.call nnn) s = .next t) →
    SameRegsBut (fun _ => False) s t ∧ SameMemory s t ∧ t.i = s.i ∧
      (∀ (k : Nat) (h : k < 32), k ≠ s.sp.val → t.stack[k]'h = s.stack[k]'h) ∧ SameTimers s t ∧ SameDisplay s t ∧
      SameKeypad s t ∧ t.fault = s.fault ∧ SameOwn s t) ∧
  (∀ (x : Nibble) (s t : State), s.sp.val ≠ 0 → exec (.ret x) s = .next t → t.stack = s.stack)

/-- R105: CLS leaves everything but the display unchanged, and DRW everything but the display and VF; pc stays as the Step
advanced it. R105 is derived by the spec from R104. -/
def Obligations.FrameOfDisplayInstructions : Prop :=
  (∀ (x : Nibble) (s t : State), exec (.cls x) s = .next t →
    SameRegsBut (fun _ => False) s t ∧ SameMemory s t ∧ t.i = s.i ∧ SameStack s t ∧ SameTimers s t ∧ SameKeypad s t ∧
      t.fault = s.fault ∧ SameOwn s t ∧ t.pc = s.pc) ∧
  (∀ (x y n : Nibble) (s t : State), s.i.toNat + n.toNat ≤ 4096 ∨ n = 0 → exec (.drw x y n) s = .next t →
    SameRegsBut (· = 15) s t ∧ SameMemory s t ∧ t.i = s.i ∧ SameStack s t ∧ SameTimers s t ∧ SameKeypad s t ∧
      t.fault = s.fault ∧ SameOwn s t ∧ t.pc = s.pc)

/-- R105: the two stores change no byte of memory outside the bytes they store at I, and nothing else; the block load changes
only V0 to Vx; pc stays as the Step advanced it. R105 is derived by the spec from R104. -/
def Obligations.FrameOfStoresAndLoads : Prop :=
  (∀ (x : Nibble) (s t : State), s.i.toNat + 2 < 4096 → exec (.ldBVx x) s = .next t →
    SameMemoryOutside s.i.toNat 3 s t ∧ SameRegsBut (fun _ => False) s t ∧ t.i = s.i ∧ SameStack s t ∧ SameTimers s t ∧
      SameDisplay s t ∧ SameKeypad s t ∧ t.fault = s.fault ∧ SameOwn s t ∧ t.pc = s.pc) ∧
  (∀ (x : Nibble) (s t : State), s.i.toNat + x.toNat < 4096 → exec (.ldMemVx x) s = .next t →
    SameMemoryOutside s.i.toNat (x.toNat + 1) s t ∧ SameRegsBut (fun _ => False) s t ∧ t.i = s.i ∧ SameStack s t ∧
      SameTimers s t ∧ SameDisplay s t ∧ SameKeypad s t ∧ t.fault = s.fault ∧ SameOwn s t ∧ t.pc = s.pc) ∧
  (∀ (x : Nibble) (s t : State), s.i.toNat + x.toNat < 4096 → exec (.ldVxMem x) s = .next t →
    FrameRegs (fun r => r.toNat ≤ x.toNat) s t ∧ t.pc = s.pc)

/-- R105: the index instructions change only I (and VF for ADD I), the timer writes only their timer, with pc as the Step
advanced it; the key wait changes only Vx and the release flag when it takes a release, and only pc, put back by 2, when it waits
(R215). R105 is derived by the spec from R104. -/
def Obligations.FrameOfIndexTimerAndKeyInstructions : Prop :=
  (∀ (x : Nibble) (nnn : Addr) (s t : State), exec (.ldI nnn) s = .next t ∨ exec (.ldFVx x) s = .next t →
    SameRegsBut (fun _ => False) s t ∧ SameMemory s t ∧ SameStack s t ∧ SameTimers s t ∧ SameDisplay s t ∧
      SameKeypad s t ∧ t.fault = s.fault ∧ SameOwn s t ∧ t.pc = s.pc) ∧
  (∀ (x : Nibble) (s t : State), s.i.toNat + (s.reg x).toNat ≤ 0xFFFF → exec (.addIVx x) s = .next t →
    SameRegsBut (· = 15) s t ∧ SameMemory s t ∧ SameStack s t ∧ SameTimers s t ∧ SameDisplay s t ∧ SameKeypad s t ∧
      t.fault = s.fault ∧ SameOwn s t ∧ t.pc = s.pc) ∧
  (∀ (x : Nibble) (s t : State), exec (.ldDtVx x) s = .next t →
    SameRegsBut (fun _ => False) s t ∧ SameMemory s t ∧ t.i = s.i ∧ SameStack s t ∧ t.st = s.st ∧ SameDisplay s t ∧
      SameKeypad s t ∧ t.fault = s.fault ∧ SameOwn s t ∧ t.pc = s.pc) ∧
  (∀ (x : Nibble) (s t : State), exec (.ldStVx x) s = .next t →
    SameRegsBut (fun _ => False) s t ∧ SameMemory s t ∧ t.i = s.i ∧ SameStack s t ∧ t.dt = s.dt ∧ SameDisplay s t ∧
      SameKeypad s t ∧ t.fault = s.fault ∧ SameOwn s t ∧ t.pc = s.pc) ∧
  (∀ (x : Nibble) (s t : State), exec (.ldVxK x) s = .next t →
    SameRegsBut (· = x) s t ∧ SameMemory s t ∧ t.i = s.i ∧ SameStack s t ∧ SameTimers s t ∧ SameDisplay s t ∧
      t.key = s.key ∧ t.lastReleased = s.lastReleased ∧ t.fault = s.fault ∧ SameOwn s t ∧
      t.pc = (if s.justReleased = true then s.pc else s.pc - 2) ∧
      (s.justReleased = false → t.x = s.x ∧ t.justReleased = false))

/-! ### Invariants -/

/-- R44 to R47: the invariant holds of the block right after reset, whatever its parameters. The bounds are the model's
inference (log entry 21) and the reset values decisions D4 and D5 (log entries 4 and 5). -/
def Obligations.InvariantHoldsAtReset : Prop := ∀ p : Config.Params, Inv (State.resetWith p)

/-- R25, R38, R60, R232: every step from a state that meets the invariant, reachable or not, gives one that meets it. Its
bounds are the model's inference from R25 and R38 (log entry 21). -/
def Obligations.StepKeepsTheInvariant : Prop := ∀ s t : State, Inv s → step s = .next t → Inv t

/-- R25, R38, R60, R232, R240: every command of the host keeps the invariant, a Step with any random byte among them. Its
bounds are the model's inference from R25 and R38 (log entry 21). -/
def Obligations.CommandsKeepTheInvariant : Prop :=
  ∀ (c : Command) (s t : State), Inv s → apply c s = .next t → Inv t

/-- R25: in a state that meets the invariant pc does not wrap: after a fetch the advanced pc is `pc + 2` and at most
0x1000, a skip makes it at most 0x1002, the largest value written is BNNN's 0x10FE, and pc of 0x0FFF or above fetches
nothing. R25 is derived by the spec. -/
def Obligations.PcNeverWraps : Prop :=
  (∀ s : State, Inv s → s.pc.toNat ≤ 0x10FE ∧ (0x0FFF ≤ s.pc.toNat → s.fetch = none) ∧
    (s.fetch ≠ none → s.advance.pc.toNat = s.pc.toNat + 2 ∧ s.advance.pc.toNat ≤ 0x1000 ∧
      ∀ c, (s.advance.skipIf c).pc.toNat ≤ 0x1002)) ∧
  (∀ (s : State) (nnn : Addr), (s.indexedTarget nnn).toNat = (s.reg 0).toNat + nnn.toNat)

/-! ### What a Step cannot depend on -/

/-- R250: only CXNN reads the random byte: a Step whose word is of another class gives the same state for every byte, but
for the model's record of the byte itself; a Step of CXNN gives Vx the byte masked by NN. R250's free byte is the
spec's own decision D24 (log entry 6). -/
def Obligations.OnlyRandomReadsTheDraw : Prop :=
  (∀ (s : State) (d d' : Byte), s.fault = none → fieldClass s.wordAtPc ≠ 0xC →
    ∃ t, stepDraw d s = .next t ∧ stepDraw d' s = .next { t with draw := d' }) ∧
  (∀ (s : State) (d : Byte), s.fault = none → s.pc.toNat + 1 < 4096 → fieldClass s.wordAtPc = 0xC →
    ∃ t, stepDraw d s = .next t ∧ t.reg (fieldX s.wordAtPc) = d &&& fieldNN s.wordAtPc)

/-- R43: a program cannot observe ST or `dirty`: steps of two states that differ only there give states that differ only
there. R43 is derived by the spec. -/
def Obligations.SoundAndDirtyAreNotObserved : Prop :=
  ∀ (s t : State) (v : Byte) (b : Bool), step s = .next t →
    ∃ v' b', step { s with st := v, dirty := b } = .next { t with st := v', dirty := b' }

/-! ### Reset and the host's commands (60_exceptions.md, 70_reset_and_hazards.md) -/

/-- R44, R45, R46, R65 and R240: what Reset leaves, whatever the block's parameters, which it stores. All but pc and the place
of the font are the spec's own decisions D4, D5 and D6 (log entries 4, 5 and 10). That no Load and no Step has happened yet
is the model's own record, so that a Load is accepted (log entries 6, 7 and 11). -/
def Obligations.ResetState : Prop :=
  ∀ (p : Config.Params) (s : State), ∃ t, apply (.reset p) s = .next t ∧
    t.pc = 0x200 ∧ (∀ r, t.reg r = 0) ∧ t.i = 0 ∧ t.sp.val = 0 ∧ (∀ (k : Nat) (h : k < 32), t.stack[k]'h = 0) ∧
    t.dt = 0 ∧ t.st = 0 ∧ (∀ c r, getPixel t.pix c r = false) ∧ t.dirty = false ∧
    (∀ (k : Nat) (h : k < 16), t.key[k]'h = false) ∧ t.lastReleased = 0 ∧ t.justReleased = false ∧ t.fault = none ∧
    (∀ (k : Nat) (h : k < 80), t.readByte (0x050 + k) = p.fontData[k]'h) ∧
    (∀ a, a < 0x050 ∨ 0x0A0 ≤ a → t.readByte a = 0) ∧
    t.params = p ∧ t.loaded = false ∧ t.steps = 0

/-- R66: the first Load copies the first 3584 bytes to 0x200 and up, drops the rest, and changes no other byte and no
other state (that it happened is the model's own record). Its premises are R272's boot order (log entry 7). -/
def Obligations.LoadCopiesTheImage : Prop :=
  ∀ (s : State) (b : List Byte), s.fault = none → s.loaded = false → s.steps = 0 →
    ∃ t, apply (.load b) s = .next t ∧
      (∀ a, t.readByte a =
        if 0x200 ≤ a ∧ a < 0x200 + min b.length 3584 then b.getD (a - 0x200) 0 else s.readByte a) ∧
      t = { s with mem := t.mem, loaded := true }

/-- R272 and R257: a Load after a Step or a second Load is refused, however many commands come between; Steps without a
Load run; SetPressed with an index above 15 is refused. The refusals are the spec's own decisions D28 and D33 (log
entries 7 and 14). -/
def Obligations.RefusedHostCommands : Prop :=
  (∀ (s : State) (b : List Byte), s.fault = none → s.loaded = true ∨ s.steps ≠ 0 →
    apply (.load b) s = .refused .loadAfterBoot) ∧
  (∀ (s t : State) (d : Byte), s.fault = none → apply (.step d) s = .next t → t.steps ≠ 0) ∧
  (∀ (s t : State) (b : List Byte), s.fault = none → apply (.load b) s = .next t → t.loaded = true) ∧
  (∀ (c : Command) (s t : State), (∀ p, c ≠ .reset p) → apply c s = .next t →
    s.steps ≤ t.steps ∧ (s.loaded = true → t.loaded = true)) ∧
  (∀ (p : Config.Params) (d : Byte), ∃ t, apply (.step d) (State.resetWith p) = .next t ∧ t.fault = none) ∧
  (∀ (s : State) (ks : List Nat), s.fault = none → (∃ k ∈ ks, 16 ≤ k) →
    apply (.setPressed ks) s = .refused .keyIndexAbove15)

/-- R242 to R245: SetPressed replaces the whole vector; the flag is true exactly when a scanned key was released;
`lastReleased` is the highest scanned key released. That it keeps its value when there is none is R246's decision D17 (log
entry 15). The scan's length is any value of the parameter, 15 on this hardware, so that key 15 is not scanned (R244,
decision D23, log entry 3). -/
def Obligations.SetPressedFindsTheLastRelease : Prop :=
  Config.defaultParams.releaseScanKeys.val = 15 ∧
  ∀ (s : State) (ks : List Nat), s.fault = none → (∀ k ∈ ks, k < 16) →
    ∃ t, apply (.setPressed ks) s = .next t ∧
      (∀ (k : Nat) (h : k < 16), t.key[k]'h = decide (k ∈ ks)) ∧
      (t.justReleased = true ↔
        ∃ (k : Nat) (h : k < 16), k < s.params.releaseScanKeys.val ∧ s.key[k]'h = true ∧ k ∉ ks) ∧
      (∀ (k : Nat) (h : k < 16), k < s.params.releaseScanKeys.val → s.key[k]'h = true → k ∉ ks →
        (∀ (j : Nat) (hj : j < 16), k < j → j < s.params.releaseScanKeys.val → ¬ (s.key[j]'hj = true ∧ j ∉ ks)) →
        t.lastReleased.toNat = k) ∧
      (t.justReleased = false → t.lastReleased = s.lastReleased) ∧
      t = { s with key := t.key, lastReleased := t.lastReleased, justReleased := t.justReleased }

/-- R247 and R31: Tick lowers both timers by one, clamped at 0, and changes nothing else. The premise that the block is not
faulted rests on the spec's own decision D12 (log entry 9). -/
def Obligations.TickCountsDownClamped : Prop :=
  ∀ s : State, s.fault = none →
    ∃ t, apply .tick s = .next t ∧ t.dt.toNat = s.dt.toNat - 1 ∧ t.st.toNat = s.st.toNat - 1 ∧
      t = { s with dt := t.dt, st := t.st }

/-- R36, R249, R251 and R240: the render view is the 2048 pixels in row-major order and `dirty`; ReadSound answers ST and
ReadFault the fault status; no read changes anything; ClearDirty clears `dirty` and changes nothing else. ReadSound is the
spec's own decision D29 (log entry 26) and the fault status is D12 (log entry 9). -/
def Obligations.DisplayReadAndDirtyClear : Prop :=
  ∀ s : State,
    (∃ pixels, observe .readDisplay s = .display pixels s.dirty ∧ pixels.length = 2048 ∧
      ∀ c r, c < 64 → r < 32 → pixels[r * 64 + c]? = some (getPixel s.pix c r)) ∧
    observe .readSound s = .sound s.st ∧ observe .readFault s = .fault s.fault ∧
    apply .readDisplay s = .next s ∧ apply .readSound s = .next s ∧ apply .readFault s = .next s ∧
    (s.fault = none → apply .clearDirty s = .next { s with dirty := false })

/-- R252, R272 and decision D2: a host that keeps its protocol (one Load, then SetPressed before each Step, all indices in
range) is never refused, whatever else it does and whether or not the program faults. The protocol as a named premise
is the spec's own decision D2. -/
def Obligations.ProtocolKeepingHostIsNeverRefused : Prop :=
  ∀ (p : Config.Params) (cs : List Command), hostProtocol cs = true → keysInRange cs →
    ∃ t, applyAll cs (State.resetWith p) = .next t
end

