-- ==== Sys2Proof/Laws/Encoding.lean ====
section
/-! SUPPORT. What the masks of the opcode map (30_encoding.md R84) leave of a word built from its fields. -/

namespace Sys2Proof

theorem wordXNN_and_class (c x : Nibble) (nn : Byte) : wordXNN c x nn &&& 0xF000 = wordXNN c 0 0 := by
  apply BitVec.eq_of_getLsbD_eq
  intro i hi
  have := c.isLt; have := x.isLt; have := nn.isLt
  interval_cases i <;> simp [wordXNN, BitVec.getLsbD_ofNat, Nat.testBit_eq_decide_div_mod_eq, -BitVec.getLsbD_eq_getElem] <;> try omega

theorem wordXNN_and_low (c x : Nibble) (nn : Byte) : wordXNN c x nn &&& 0xF0FF = wordXNN c 0 nn := by
  apply BitVec.eq_of_getLsbD_eq
  intro i hi
  have := c.isLt; have := x.isLt; have := nn.isLt
  interval_cases i <;> simp [wordXNN, BitVec.getLsbD_ofNat, Nat.testBit_eq_decide_div_mod_eq, -BitVec.getLsbD_eq_getElem] <;> try omega

theorem wordXYN_and_class (c x y n : Nibble) : wordXYN c x y n &&& 0xF000 = wordXYN c 0 0 0 := by
  apply BitVec.eq_of_getLsbD_eq
  intro i hi
  have := c.isLt; have := x.isLt; have := y.isLt; have := n.isLt
  interval_cases i <;> simp [wordXYN, BitVec.getLsbD_ofNat, Nat.testBit_eq_decide_div_mod_eq, -BitVec.getLsbD_eq_getElem] <;> try omega

theorem wordXYN_and_N (c x y n : Nibble) : wordXYN c x y n &&& 0xF00F = wordXYN c 0 0 n := by
  apply BitVec.eq_of_getLsbD_eq
  intro i hi
  have := c.isLt; have := x.isLt; have := y.isLt; have := n.isLt
  interval_cases i <;> simp [wordXYN, BitVec.getLsbD_ofNat, Nat.testBit_eq_decide_div_mod_eq, -BitVec.getLsbD_eq_getElem] <;> try omega

theorem wordNNN_and_class (c : Nibble) (nnn : Addr) : wordNNN c nnn &&& 0xF000 = wordNNN c 0 := by
  apply BitVec.eq_of_getLsbD_eq
  intro i hi
  have := c.isLt; have := nnn.isLt
  interval_cases i <;> simp [wordNNN, BitVec.getLsbD_ofNat, Nat.testBit_eq_decide_div_mod_eq, -BitVec.getLsbD_eq_getElem] <;> try omega

end Sys2Proof
end

