-- ==== Sys2Proof/Laws/State.lean ====
section
/-! SUPPORT. What each update of the state does to each field: one lemma per field per update, so that no proof unfolds a
record update. -/

namespace Sys2Proof.Machine

variable (s : State)

/-! ### The register write -/

@[simp] theorem State.setReg_mem (r : Nibble) (v : Byte) :
    (s.setReg r v).mem = s.mem := rfl

@[simp] theorem State.setReg_x (r : Nibble) (v : Byte) :
    (s.setReg r v).x = s.x.set r.toNat v r.isLt := rfl

@[simp] theorem State.setReg_i (r : Nibble) (v : Byte) :
    (s.setReg r v).i = s.i := rfl

@[simp] theorem State.setReg_pc (r : Nibble) (v : Byte) :
    (s.setReg r v).pc = s.pc := rfl

@[simp] theorem State.setReg_stack (r : Nibble) (v : Byte) :
    (s.setReg r v).stack = s.stack := rfl

@[simp] theorem State.setReg_sp (r : Nibble) (v : Byte) :
    (s.setReg r v).sp = s.sp := rfl

@[simp] theorem State.setReg_dt (r : Nibble) (v : Byte) :
    (s.setReg r v).dt = s.dt := rfl

@[simp] theorem State.setReg_st (r : Nibble) (v : Byte) :
    (s.setReg r v).st = s.st := rfl

@[simp] theorem State.setReg_pix (r : Nibble) (v : Byte) :
    (s.setReg r v).pix = s.pix := rfl

@[simp] theorem State.setReg_dirty (r : Nibble) (v : Byte) :
    (s.setReg r v).dirty = s.dirty := rfl

@[simp] theorem State.setReg_key (r : Nibble) (v : Byte) :
    (s.setReg r v).key = s.key := rfl

@[simp] theorem State.setReg_lastReleased (r : Nibble) (v : Byte) :
    (s.setReg r v).lastReleased = s.lastReleased := rfl

@[simp] theorem State.setReg_justReleased (r : Nibble) (v : Byte) :
    (s.setReg r v).justReleased = s.justReleased := rfl

@[simp] theorem State.setReg_fault (r : Nibble) (v : Byte) :
    (s.setReg r v).fault = s.fault := rfl

@[simp] theorem State.setReg_params (r : Nibble) (v : Byte) :
    (s.setReg r v).params = s.params := rfl

@[simp] theorem State.setReg_draw (r : Nibble) (v : Byte) :
    (s.setReg r v).draw = s.draw := rfl

@[simp] theorem State.setReg_steps (r : Nibble) (v : Byte) :
    (s.setReg r v).steps = s.steps := rfl

@[simp] theorem State.setReg_loaded (r : Nibble) (v : Byte) :
    (s.setReg r v).loaded = s.loaded := rfl

/-! ### The flag write -/

@[simp] theorem State.setFlag_mem (v : Byte) :
    (s.setFlag v).mem = s.mem := rfl

@[simp] theorem State.setFlag_x (v : Byte) :
    (s.setFlag v).x = s.x.set Config.flagReg.toNat v Config.flagReg.isLt := rfl

@[simp] theorem State.setFlag_i (v : Byte) :
    (s.setFlag v).i = s.i := rfl

@[simp] theorem State.setFlag_pc (v : Byte) :
    (s.setFlag v).pc = s.pc := rfl

@[simp] theorem State.setFlag_stack (v : Byte) :
    (s.setFlag v).stack = s.stack := rfl

@[simp] theorem State.setFlag_sp (v : Byte) :
    (s.setFlag v).sp = s.sp := rfl

@[simp] theorem State.setFlag_dt (v : Byte) :
    (s.setFlag v).dt = s.dt := rfl

@[simp] theorem State.setFlag_st (v : Byte) :
    (s.setFlag v).st = s.st := rfl

@[simp] theorem State.setFlag_pix (v : Byte) :
    (s.setFlag v).pix = s.pix := rfl

@[simp] theorem State.setFlag_dirty (v : Byte) :
    (s.setFlag v).dirty = s.dirty := rfl

@[simp] theorem State.setFlag_key (v : Byte) :
    (s.setFlag v).key = s.key := rfl

@[simp] theorem State.setFlag_lastReleased (v : Byte) :
    (s.setFlag v).lastReleased = s.lastReleased := rfl

@[simp] theorem State.setFlag_justReleased (v : Byte) :
    (s.setFlag v).justReleased = s.justReleased := rfl

@[simp] theorem State.setFlag_fault (v : Byte) :
    (s.setFlag v).fault = s.fault := rfl

@[simp] theorem State.setFlag_params (v : Byte) :
    (s.setFlag v).params = s.params := rfl

@[simp] theorem State.setFlag_draw (v : Byte) :
    (s.setFlag v).draw = s.draw := rfl

@[simp] theorem State.setFlag_steps (v : Byte) :
    (s.setFlag v).steps = s.steps := rfl

@[simp] theorem State.setFlag_loaded (v : Byte) :
    (s.setFlag v).loaded = s.loaded := rfl

/-! ### The write of I -/

@[simp] theorem State.setI_mem (v : Word) :
    (s.setI v).mem = s.mem := rfl

@[simp] theorem State.setI_x (v : Word) :
    (s.setI v).x = s.x := rfl

@[simp] theorem State.setI_i (v : Word) :
    (s.setI v).i = v := rfl

@[simp] theorem State.setI_pc (v : Word) :
    (s.setI v).pc = s.pc := rfl

@[simp] theorem State.setI_stack (v : Word) :
    (s.setI v).stack = s.stack := rfl

@[simp] theorem State.setI_sp (v : Word) :
    (s.setI v).sp = s.sp := rfl

@[simp] theorem State.setI_dt (v : Word) :
    (s.setI v).dt = s.dt := rfl

@[simp] theorem State.setI_st (v : Word) :
    (s.setI v).st = s.st := rfl

@[simp] theorem State.setI_pix (v : Word) :
    (s.setI v).pix = s.pix := rfl

@[simp] theorem State.setI_dirty (v : Word) :
    (s.setI v).dirty = s.dirty := rfl

@[simp] theorem State.setI_key (v : Word) :
    (s.setI v).key = s.key := rfl

@[simp] theorem State.setI_lastReleased (v : Word) :
    (s.setI v).lastReleased = s.lastReleased := rfl

@[simp] theorem State.setI_justReleased (v : Word) :
    (s.setI v).justReleased = s.justReleased := rfl

@[simp] theorem State.setI_fault (v : Word) :
    (s.setI v).fault = s.fault := rfl

@[simp] theorem State.setI_params (v : Word) :
    (s.setI v).params = s.params := rfl

@[simp] theorem State.setI_draw (v : Word) :
    (s.setI v).draw = s.draw := rfl

@[simp] theorem State.setI_steps (v : Word) :
    (s.setI v).steps = s.steps := rfl

@[simp] theorem State.setI_loaded (v : Word) :
    (s.setI v).loaded = s.loaded := rfl

/-! ### The write of pc -/

@[simp] theorem State.setPc_mem (v : Word) :
    (s.setPc v).mem = s.mem := rfl

@[simp] theorem State.setPc_x (v : Word) :
    (s.setPc v).x = s.x := rfl

@[simp] theorem State.setPc_i (v : Word) :
    (s.setPc v).i = s.i := rfl

@[simp] theorem State.setPc_pc (v : Word) :
    (s.setPc v).pc = v := rfl

@[simp] theorem State.setPc_stack (v : Word) :
    (s.setPc v).stack = s.stack := rfl

@[simp] theorem State.setPc_sp (v : Word) :
    (s.setPc v).sp = s.sp := rfl

@[simp] theorem State.setPc_dt (v : Word) :
    (s.setPc v).dt = s.dt := rfl

@[simp] theorem State.setPc_st (v : Word) :
    (s.setPc v).st = s.st := rfl

@[simp] theorem State.setPc_pix (v : Word) :
    (s.setPc v).pix = s.pix := rfl

@[simp] theorem State.setPc_dirty (v : Word) :
    (s.setPc v).dirty = s.dirty := rfl

@[simp] theorem State.setPc_key (v : Word) :
    (s.setPc v).key = s.key := rfl

@[simp] theorem State.setPc_lastReleased (v : Word) :
    (s.setPc v).lastReleased = s.lastReleased := rfl

@[simp] theorem State.setPc_justReleased (v : Word) :
    (s.setPc v).justReleased = s.justReleased := rfl

@[simp] theorem State.setPc_fault (v : Word) :
    (s.setPc v).fault = s.fault := rfl

@[simp] theorem State.setPc_params (v : Word) :
    (s.setPc v).params = s.params := rfl

@[simp] theorem State.setPc_draw (v : Word) :
    (s.setPc v).draw = s.draw := rfl

@[simp] theorem State.setPc_steps (v : Word) :
    (s.setPc v).steps = s.steps := rfl

@[simp] theorem State.setPc_loaded (v : Word) :
    (s.setPc v).loaded = s.loaded := rfl

/-! ### The advance of pc -/

@[simp] theorem State.advance_mem :
    (s.advance).mem = s.mem := rfl

@[simp] theorem State.advance_x :
    (s.advance).x = s.x := rfl

@[simp] theorem State.advance_i :
    (s.advance).i = s.i := rfl

@[simp] theorem State.advance_pc :
    (s.advance).pc = s.pc + 2 := rfl

@[simp] theorem State.advance_stack :
    (s.advance).stack = s.stack := rfl

@[simp] theorem State.advance_sp :
    (s.advance).sp = s.sp := rfl

@[simp] theorem State.advance_dt :
    (s.advance).dt = s.dt := rfl

@[simp] theorem State.advance_st :
    (s.advance).st = s.st := rfl

@[simp] theorem State.advance_pix :
    (s.advance).pix = s.pix := rfl

@[simp] theorem State.advance_dirty :
    (s.advance).dirty = s.dirty := rfl

@[simp] theorem State.advance_key :
    (s.advance).key = s.key := rfl

@[simp] theorem State.advance_lastReleased :
    (s.advance).lastReleased = s.lastReleased := rfl

@[simp] theorem State.advance_justReleased :
    (s.advance).justReleased = s.justReleased := rfl

@[simp] theorem State.advance_fault :
    (s.advance).fault = s.fault := rfl

@[simp] theorem State.advance_params :
    (s.advance).params = s.params := rfl

@[simp] theorem State.advance_draw :
    (s.advance).draw = s.draw := rfl

@[simp] theorem State.advance_steps :
    (s.advance).steps = s.steps := rfl

@[simp] theorem State.advance_loaded :
    (s.advance).loaded = s.loaded := rfl

/-! ### The skip -/

@[simp] theorem State.skipIf_mem (c : Bool) :
    (s.skipIf c).mem = s.mem := by cases c <;> rfl

@[simp] theorem State.skipIf_x (c : Bool) :
    (s.skipIf c).x = s.x := by cases c <;> rfl

@[simp] theorem State.skipIf_i (c : Bool) :
    (s.skipIf c).i = s.i := by cases c <;> rfl

@[simp] theorem State.skipIf_pc (c : Bool) :
    (s.skipIf c).pc = if c then s.pc + 2 else s.pc := by cases c <;> rfl

@[simp] theorem State.skipIf_stack (c : Bool) :
    (s.skipIf c).stack = s.stack := by cases c <;> rfl

@[simp] theorem State.skipIf_sp (c : Bool) :
    (s.skipIf c).sp = s.sp := by cases c <;> rfl

@[simp] theorem State.skipIf_dt (c : Bool) :
    (s.skipIf c).dt = s.dt := by cases c <;> rfl

@[simp] theorem State.skipIf_st (c : Bool) :
    (s.skipIf c).st = s.st := by cases c <;> rfl

@[simp] theorem State.skipIf_pix (c : Bool) :
    (s.skipIf c).pix = s.pix := by cases c <;> rfl

@[simp] theorem State.skipIf_dirty (c : Bool) :
    (s.skipIf c).dirty = s.dirty := by cases c <;> rfl

@[simp] theorem State.skipIf_key (c : Bool) :
    (s.skipIf c).key = s.key := by cases c <;> rfl

@[simp] theorem State.skipIf_lastReleased (c : Bool) :
    (s.skipIf c).lastReleased = s.lastReleased := by cases c <;> rfl

@[simp] theorem State.skipIf_justReleased (c : Bool) :
    (s.skipIf c).justReleased = s.justReleased := by cases c <;> rfl

@[simp] theorem State.skipIf_fault (c : Bool) :
    (s.skipIf c).fault = s.fault := by cases c <;> rfl

@[simp] theorem State.skipIf_params (c : Bool) :
    (s.skipIf c).params = s.params := by cases c <;> rfl

@[simp] theorem State.skipIf_draw (c : Bool) :
    (s.skipIf c).draw = s.draw := by cases c <;> rfl

@[simp] theorem State.skipIf_steps (c : Bool) :
    (s.skipIf c).steps = s.steps := by cases c <;> rfl

@[simp] theorem State.skipIf_loaded (c : Bool) :
    (s.skipIf c).loaded = s.loaded := by cases c <;> rfl

/-! ### The memory write -/

@[simp] theorem State.writeBytes_mem (a : Nat) (bs : List Byte) :
    (s.writeBytes a bs).mem = Memory.writeBytes s.params.fontData s.mem a bs := rfl

@[simp] theorem State.writeBytes_x (a : Nat) (bs : List Byte) :
    (s.writeBytes a bs).x = s.x := rfl

@[simp] theorem State.writeBytes_i (a : Nat) (bs : List Byte) :
    (s.writeBytes a bs).i = s.i := rfl

@[simp] theorem State.writeBytes_pc (a : Nat) (bs : List Byte) :
    (s.writeBytes a bs).pc = s.pc := rfl

@[simp] theorem State.writeBytes_stack (a : Nat) (bs : List Byte) :
    (s.writeBytes a bs).stack = s.stack := rfl

@[simp] theorem State.writeBytes_sp (a : Nat) (bs : List Byte) :
    (s.writeBytes a bs).sp = s.sp := rfl

@[simp] theorem State.writeBytes_dt (a : Nat) (bs : List Byte) :
    (s.writeBytes a bs).dt = s.dt := rfl

@[simp] theorem State.writeBytes_st (a : Nat) (bs : List Byte) :
    (s.writeBytes a bs).st = s.st := rfl

@[simp] theorem State.writeBytes_pix (a : Nat) (bs : List Byte) :
    (s.writeBytes a bs).pix = s.pix := rfl

@[simp] theorem State.writeBytes_dirty (a : Nat) (bs : List Byte) :
    (s.writeBytes a bs).dirty = s.dirty := rfl

@[simp] theorem State.writeBytes_key (a : Nat) (bs : List Byte) :
    (s.writeBytes a bs).key = s.key := rfl

@[simp] theorem State.writeBytes_lastReleased (a : Nat) (bs : List Byte) :
    (s.writeBytes a bs).lastReleased = s.lastReleased := rfl

@[simp] theorem State.writeBytes_justReleased (a : Nat) (bs : List Byte) :
    (s.writeBytes a bs).justReleased = s.justReleased := rfl

@[simp] theorem State.writeBytes_fault (a : Nat) (bs : List Byte) :
    (s.writeBytes a bs).fault = s.fault := rfl

@[simp] theorem State.writeBytes_params (a : Nat) (bs : List Byte) :
    (s.writeBytes a bs).params = s.params := rfl

@[simp] theorem State.writeBytes_draw (a : Nat) (bs : List Byte) :
    (s.writeBytes a bs).draw = s.draw := rfl

@[simp] theorem State.writeBytes_steps (a : Nat) (bs : List Byte) :
    (s.writeBytes a bs).steps = s.steps := rfl

@[simp] theorem State.writeBytes_loaded (a : Nat) (bs : List Byte) :
    (s.writeBytes a bs).loaded = s.loaded := rfl

/-! ### Fault entry -/

@[simp] theorem State.enterFault_mem (code : Fault) (a : Word) (w : Option Word) :
    (s.enterFault code a w).mem = s.mem := rfl

@[simp] theorem State.enterFault_x (code : Fault) (a : Word) (w : Option Word) :
    (s.enterFault code a w).x = s.x := rfl

@[simp] theorem State.enterFault_i (code : Fault) (a : Word) (w : Option Word) :
    (s.enterFault code a w).i = s.i := rfl

@[simp] theorem State.enterFault_pc (code : Fault) (a : Word) (w : Option Word) :
    (s.enterFault code a w).pc = a := rfl

@[simp] theorem State.enterFault_stack (code : Fault) (a : Word) (w : Option Word) :
    (s.enterFault code a w).stack = s.stack := rfl

@[simp] theorem State.enterFault_sp (code : Fault) (a : Word) (w : Option Word) :
    (s.enterFault code a w).sp = s.sp := rfl

@[simp] theorem State.enterFault_dt (code : Fault) (a : Word) (w : Option Word) :
    (s.enterFault code a w).dt = s.dt := rfl

@[simp] theorem State.enterFault_st (code : Fault) (a : Word) (w : Option Word) :
    (s.enterFault code a w).st = s.st := rfl

@[simp] theorem State.enterFault_pix (code : Fault) (a : Word) (w : Option Word) :
    (s.enterFault code a w).pix = s.pix := rfl

@[simp] theorem State.enterFault_dirty (code : Fault) (a : Word) (w : Option Word) :
    (s.enterFault code a w).dirty = s.dirty := rfl

@[simp] theorem State.enterFault_key (code : Fault) (a : Word) (w : Option Word) :
    (s.enterFault code a w).key = s.key := rfl

@[simp] theorem State.enterFault_lastReleased (code : Fault) (a : Word) (w : Option Word) :
    (s.enterFault code a w).lastReleased = s.lastReleased := rfl

@[simp] theorem State.enterFault_justReleased (code : Fault) (a : Word) (w : Option Word) :
    (s.enterFault code a w).justReleased = s.justReleased := rfl

@[simp] theorem State.enterFault_fault (code : Fault) (a : Word) (w : Option Word) :
    (s.enterFault code a w).fault = some { code := code, pcAtFetch := a, word := w } := rfl

@[simp] theorem State.enterFault_params (code : Fault) (a : Word) (w : Option Word) :
    (s.enterFault code a w).params = s.params := rfl

@[simp] theorem State.enterFault_draw (code : Fault) (a : Word) (w : Option Word) :
    (s.enterFault code a w).draw = s.draw := rfl

@[simp] theorem State.enterFault_steps (code : Fault) (a : Word) (w : Option Word) :
    (s.enterFault code a w).steps = s.steps := rfl

@[simp] theorem State.enterFault_loaded (code : Fault) (a : Word) (w : Option Word) :
    (s.enterFault code a w).loaded = s.loaded := rfl

/-! ### An instruction's fault -/

@[simp] theorem State.raise_mem (code : Fault) (i : Instr) :
    (s.raise code i).mem = s.mem := rfl

@[simp] theorem State.raise_x (code : Fault) (i : Instr) :
    (s.raise code i).x = s.x := rfl

@[simp] theorem State.raise_i (code : Fault) (i : Instr) :
    (s.raise code i).i = s.i := rfl

@[simp] theorem State.raise_pc (code : Fault) (i : Instr) :
    (s.raise code i).pc = s.pc - 2 := rfl

@[simp] theorem State.raise_stack (code : Fault) (i : Instr) :
    (s.raise code i).stack = s.stack := rfl

@[simp] theorem State.raise_sp (code : Fault) (i : Instr) :
    (s.raise code i).sp = s.sp := rfl

@[simp] theorem State.raise_dt (code : Fault) (i : Instr) :
    (s.raise code i).dt = s.dt := rfl

@[simp] theorem State.raise_st (code : Fault) (i : Instr) :
    (s.raise code i).st = s.st := rfl

@[simp] theorem State.raise_pix (code : Fault) (i : Instr) :
    (s.raise code i).pix = s.pix := rfl

@[simp] theorem State.raise_dirty (code : Fault) (i : Instr) :
    (s.raise code i).dirty = s.dirty := rfl

@[simp] theorem State.raise_key (code : Fault) (i : Instr) :
    (s.raise code i).key = s.key := rfl

@[simp] theorem State.raise_lastReleased (code : Fault) (i : Instr) :
    (s.raise code i).lastReleased = s.lastReleased := rfl

@[simp] theorem State.raise_justReleased (code : Fault) (i : Instr) :
    (s.raise code i).justReleased = s.justReleased := rfl

@[simp] theorem State.raise_fault (code : Fault) (i : Instr) :
    (s.raise code i).fault = some { code := code, pcAtFetch := s.pc - 2, word := some (encode i) } := rfl

@[simp] theorem State.raise_params (code : Fault) (i : Instr) :
    (s.raise code i).params = s.params := rfl

@[simp] theorem State.raise_draw (code : Fault) (i : Instr) :
    (s.raise code i).draw = s.draw := rfl

@[simp] theorem State.raise_steps (code : Fault) (i : Instr) :
    (s.raise code i).steps = s.steps := rfl

@[simp] theorem State.raise_loaded (code : Fault) (i : Instr) :
    (s.raise code i).loaded = s.loaded := rfl

/-! ### The taking of a random byte -/

@[simp] theorem State.beginStep_mem (d : Byte) :
    (s.beginStep d).mem = s.mem := rfl

@[simp] theorem State.beginStep_x (d : Byte) :
    (s.beginStep d).x = s.x := rfl

@[simp] theorem State.beginStep_i (d : Byte) :
    (s.beginStep d).i = s.i := rfl

@[simp] theorem State.beginStep_pc (d : Byte) :
    (s.beginStep d).pc = s.pc := rfl

@[simp] theorem State.beginStep_stack (d : Byte) :
    (s.beginStep d).stack = s.stack := rfl

@[simp] theorem State.beginStep_sp (d : Byte) :
    (s.beginStep d).sp = s.sp := rfl

@[simp] theorem State.beginStep_dt (d : Byte) :
    (s.beginStep d).dt = s.dt := rfl

@[simp] theorem State.beginStep_st (d : Byte) :
    (s.beginStep d).st = s.st := rfl

@[simp] theorem State.beginStep_pix (d : Byte) :
    (s.beginStep d).pix = s.pix := rfl

@[simp] theorem State.beginStep_dirty (d : Byte) :
    (s.beginStep d).dirty = s.dirty := rfl

@[simp] theorem State.beginStep_key (d : Byte) :
    (s.beginStep d).key = s.key := rfl

@[simp] theorem State.beginStep_lastReleased (d : Byte) :
    (s.beginStep d).lastReleased = s.lastReleased := rfl

@[simp] theorem State.beginStep_justReleased (d : Byte) :
    (s.beginStep d).justReleased = s.justReleased := rfl

@[simp] theorem State.beginStep_fault (d : Byte) :
    (s.beginStep d).fault = s.fault := rfl

@[simp] theorem State.beginStep_params (d : Byte) :
    (s.beginStep d).params = s.params := rfl

@[simp] theorem State.beginStep_draw (d : Byte) :
    (s.beginStep d).draw = d := rfl

@[simp] theorem State.beginStep_steps (d : Byte) :
    (s.beginStep d).steps = s.steps + 1 := rfl

@[simp] theorem State.beginStep_loaded (d : Byte) :
    (s.beginStep d).loaded = s.loaded := rfl

/-! ### The timer tick -/

@[simp] theorem State.tick_mem :
    (s.tick).mem = s.mem := rfl

@[simp] theorem State.tick_x :
    (s.tick).x = s.x := rfl

@[simp] theorem State.tick_i :
    (s.tick).i = s.i := rfl

@[simp] theorem State.tick_pc :
    (s.tick).pc = s.pc := rfl

@[simp] theorem State.tick_stack :
    (s.tick).stack = s.stack := rfl

@[simp] theorem State.tick_sp :
    (s.tick).sp = s.sp := rfl

@[simp] theorem State.tick_dt :
    (s.tick).dt = countDown s.dt := rfl

@[simp] theorem State.tick_st :
    (s.tick).st = countDown s.st := rfl

@[simp] theorem State.tick_pix :
    (s.tick).pix = s.pix := rfl

@[simp] theorem State.tick_dirty :
    (s.tick).dirty = s.dirty := rfl

@[simp] theorem State.tick_key :
    (s.tick).key = s.key := rfl

@[simp] theorem State.tick_lastReleased :
    (s.tick).lastReleased = s.lastReleased := rfl

@[simp] theorem State.tick_justReleased :
    (s.tick).justReleased = s.justReleased := rfl

@[simp] theorem State.tick_fault :
    (s.tick).fault = s.fault := rfl

@[simp] theorem State.tick_params :
    (s.tick).params = s.params := rfl

@[simp] theorem State.tick_draw :
    (s.tick).draw = s.draw := rfl

@[simp] theorem State.tick_steps :
    (s.tick).steps = s.steps := rfl

@[simp] theorem State.tick_loaded :
    (s.tick).loaded = s.loaded := rfl

/-! ### The keypad update -/

@[simp] theorem State.setPressed_mem (ks : List Nat) :
    (s.setPressed ks).mem = s.mem := by
  unfold State.setPressed; dsimp only; split <;> rfl

@[simp] theorem State.setPressed_x (ks : List Nat) :
    (s.setPressed ks).x = s.x := by
  unfold State.setPressed; dsimp only; split <;> rfl

@[simp] theorem State.setPressed_i (ks : List Nat) :
    (s.setPressed ks).i = s.i := by
  unfold State.setPressed; dsimp only; split <;> rfl

@[simp] theorem State.setPressed_pc (ks : List Nat) :
    (s.setPressed ks).pc = s.pc := by
  unfold State.setPressed; dsimp only; split <;> rfl

@[simp] theorem State.setPressed_stack (ks : List Nat) :
    (s.setPressed ks).stack = s.stack := by
  unfold State.setPressed; dsimp only; split <;> rfl

@[simp] theorem State.setPressed_sp (ks : List Nat) :
    (s.setPressed ks).sp = s.sp := by
  unfold State.setPressed; dsimp only; split <;> rfl

@[simp] theorem State.setPressed_dt (ks : List Nat) :
    (s.setPressed ks).dt = s.dt := by
  unfold State.setPressed; dsimp only; split <;> rfl

@[simp] theorem State.setPressed_st (ks : List Nat) :
    (s.setPressed ks).st = s.st := by
  unfold State.setPressed; dsimp only; split <;> rfl

@[simp] theorem State.setPressed_pix (ks : List Nat) :
    (s.setPressed ks).pix = s.pix := by
  unfold State.setPressed; dsimp only; split <;> rfl

@[simp] theorem State.setPressed_dirty (ks : List Nat) :
    (s.setPressed ks).dirty = s.dirty := by
  unfold State.setPressed; dsimp only; split <;> rfl

@[simp] theorem State.setPressed_key (ks : List Nat) :
    (s.setPressed ks).key = keyVector ks := by
  unfold State.setPressed; dsimp only; split <;> rfl

@[simp] theorem State.setPressed_fault (ks : List Nat) :
    (s.setPressed ks).fault = s.fault := by
  unfold State.setPressed; dsimp only; split <;> rfl

@[simp] theorem State.setPressed_params (ks : List Nat) :
    (s.setPressed ks).params = s.params := by
  unfold State.setPressed; dsimp only; split <;> rfl

@[simp] theorem State.setPressed_draw (ks : List Nat) :
    (s.setPressed ks).draw = s.draw := by
  unfold State.setPressed; dsimp only; split <;> rfl

@[simp] theorem State.setPressed_steps (ks : List Nat) :
    (s.setPressed ks).steps = s.steps := by
  unfold State.setPressed; dsimp only; split <;> rfl

@[simp] theorem State.setPressed_loaded (ks : List Nat) :
    (s.setPressed ks).loaded = s.loaded := by
  unfold State.setPressed; dsimp only; split <;> rfl

end Sys2Proof.Machine
end

