-- ==== Sys2Proof/Laws/Framebuffer.lean ====
section
/-! SUPPORT. The pixel primitives: reading a pixel after a write or a toggle. -/

namespace Sys2Proof.Machine

/-- Reading a pixel after a pixel is set, coordinates taken modulo the grid. -/
theorem getPixel_setPixel (g : Grid) (c r c' r' : Nat) (b : Bool) :
    getPixel (setPixel g c r b) c' r' =
      if r' % 32 = r % 32 ∧ c' % 64 = c % 64 then b else getPixel g c' r' := by
  unfold getPixel setPixel
  simp only [Vector.getElem_set]
  by_cases hr : r % 32 = r' % 32
  · by_cases hc : c % 64 = c' % 64
    · simp [hr, hc]
    · simp [hr, hc, Ne.symm hc]
  · simp [hr, Ne.symm hr]

/-- Reading a pixel after a toggle. -/
theorem getPixel_togglePixel (g : Grid) (c r c' r' : Nat) :
    getPixel (togglePixel g c r) c' r' =
      if r' % 32 = r % 32 ∧ c' % 64 = c % 64 then !getPixel g c r else getPixel g c' r' :=
  getPixel_setPixel g c r c' r' _

/-- Every pixel of the cleared grid is off. -/
theorem getPixel_clearGrid (c r : Nat) : getPixel clearGrid c r = false := by
  simp [getPixel, clearGrid]

/-- Two grids that read the same at every pixel are the same. -/
theorem grid_ext {g g' : Grid} (h : ∀ c < 64, ∀ r < 32, getPixel g c r = getPixel g' c r) : g = g' := by
  apply Vector.ext
  intro r hr
  apply Vector.ext
  intro c hc
  have := h c hc r hr
  unfold getPixel at this
  simpa only [Nat.mod_eq_of_lt hr, Nat.mod_eq_of_lt hc] using this

end Sys2Proof.Machine
end

