-- ==== Sys2Proof/Laws/Memory.lean ====
section
/-! SUPPORT. Memory: a read after a write, and that every memory operation keeps the canonical form. -/

namespace Sys2Proof.Machine

variable (font : Vector Byte Config.fontSize)

theorem Memory.read_insert (m : Memory) (a a' : Nat) (b : Byte) :
    Memory.read font (Memory.insert m a b) a' = if a' = a then b else Memory.read font m a' := by
  induction m with
  | nil => simp [Memory.insert, Memory.read, eq_comm]
  | cons c rest ih =>
    obtain ⟨k, v⟩ := c
    unfold Memory.insert
    split
    · by_cases h : a = a' <;> simp [Memory.read, h, eq_comm]
    · split
      · rename_i h; subst h
        by_cases h : k = a'
        · simp [Memory.read, h]
        · simp [Memory.read, h, Ne.symm h]
      · rename_i h
        simp only [Memory.read, ih]
        by_cases h1 : k = a'
        · subst h1; simp [h]
        · simp [h1]

theorem Memory.read_erase (m : Memory) (a a' : Nat) :
    Memory.read font (Memory.erase m a) a' = if a' = a then Memory.unlisted font a else Memory.read font m a' := by
  induction m with
  | nil => by_cases h : a' = a <;> simp [Memory.erase, Memory.read, h]
  | cons c rest ih =>
    obtain ⟨k, v⟩ := c
    unfold Memory.erase
    split
    · rename_i h; subst h
      rw [ih]
      by_cases h : a' = k
      · simp [h]
      · simp [Memory.read, h, Ne.symm h]
    · rename_i h
      simp only [Memory.read, ih]
      by_cases h1 : k = a'
      · subst h1; simp [h]
      · simp [h1]

/-- A read after a write of one byte: the byte written there, and every other address as before. -/
theorem Memory.read_write (m : Memory) (a a' : Nat) (b : Byte) (h : a < Config.memSize) :
    Memory.read font (Memory.write font m a b) a' = if a' = a then b else Memory.read font m a' := by
  unfold Memory.write
  rw [if_pos h]
  split
  · rename_i hb; rw [Memory.read_erase]; simp [hb]
  · exact Memory.read_insert font m a a' b

/-- A read after a write of a range in memory: the byte written there inside the range, and every other address as before. -/
theorem Memory.read_writeBytes (m : Memory) (a a' : Nat) (bs : List Byte) (h : a + bs.length ≤ Config.memSize) :
    Memory.read font (Memory.writeBytes font m a bs) a' =
      if a ≤ a' then bs.getD (a' - a) (Memory.read font m a') else Memory.read font m a' := by
  induction bs generalizing m a with
  | nil => simp [Memory.writeBytes]
  | cons b rest ih =>
    simp only [List.length_cons] at h
    rw [Memory.writeBytes, ih _ _ (by omega), Memory.read_write font m a a' b (by omega)]
    by_cases h1 : a' = a
    · simp [h1]
    · by_cases h2 : a + 1 ≤ a'
      · obtain ⟨d, hd⟩ : ∃ d, a' - a = d + 1 := ⟨a' - a - 1, by omega⟩
        have h3 : a' - (a + 1) = d := by omega
        have h4 : a ≤ a' := by omega
        simp [h1, h2, h4, hd, h3]
      · have h4 : ¬ a ≤ a' := by omega
        simp [h1, h2, h4]

theorem Memory.mem_insert {m : Memory} {a : Nat} {b : Byte} {c : Host.Cell} (h : c ∈ Memory.insert m a b) :
    c = (a, b) ∨ c ∈ m := by
  induction m with
  | nil => simpa [Memory.insert] using h
  | cons d rest ih =>
    obtain ⟨k, v⟩ := d
    unfold Memory.insert at h
    split at h
    · simpa using h
    · split at h
      · rcases List.mem_cons.1 h with h | h
        · exact Or.inl h
        · exact Or.inr (List.mem_cons_of_mem _ h)
      · rcases List.mem_cons.1 h with h | h
        · exact Or.inr (by simp [h])
        · exact (ih h).imp id (List.mem_cons_of_mem _)

theorem Memory.mem_erase {m : Memory} {a : Nat} {c : Host.Cell} (h : c ∈ Memory.erase m a) : c ∈ m := by
  induction m with
  | nil => simp [Memory.erase] at h
  | cons d rest ih =>
    obtain ⟨k, v⟩ := d
    unfold Memory.erase at h
    split at h
    · exact List.mem_cons_of_mem _ (ih h)
    · rcases List.mem_cons.1 h with h | h
      · simp [h]
      · exact List.mem_cons_of_mem _ (ih h)

theorem Memory.pairwise_insert {m : Memory} (a : Nat) (b : Byte)
    (h : List.Pairwise (fun p q => p.1 < q.1) m) :
    List.Pairwise (fun p q => p.1 < q.1) (Memory.insert m a b) := by
  induction m with
  | nil => simp [Memory.insert]
  | cons d rest ih =>
    obtain ⟨k, v⟩ := d
    obtain ⟨hk, hr⟩ := List.pairwise_cons.1 h
    unfold Memory.insert
    split
    · rename_i h1
      refine List.pairwise_cons.2 ⟨fun c hc => ?_, h⟩
      rcases List.mem_cons.1 hc with rfl | hc
      · exact h1
      · exact lt_trans h1 (hk c hc)
    · split
      · rename_i h1 h2
        subst h2
        exact List.pairwise_cons.2 ⟨hk, hr⟩
      · rename_i h1 h2
        refine List.pairwise_cons.2 ⟨fun c hc => ?_, ih hr⟩
        rcases Memory.mem_insert hc with rfl | hc
        · show k < a
          omega
        · exact hk c hc

theorem Memory.pairwise_erase {m : Memory} (a : Nat) (h : List.Pairwise (fun p q => p.1 < q.1) m) :
    List.Pairwise (fun p q => p.1 < q.1) (Memory.erase m a) := by
  induction m with
  | nil => simp [Memory.erase]
  | cons d rest ih =>
    obtain ⟨k, v⟩ := d
    obtain ⟨hk, hr⟩ := List.pairwise_cons.1 h
    unfold Memory.erase
    split
    · exact ih hr
    · exact List.pairwise_cons.2 ⟨fun c hc => hk c (Memory.mem_erase hc), ih hr⟩

/-- A write keeps the canonical form. -/
theorem Memory.wf_write {m : Memory} (a : Nat) (b : Byte) (h : Memory.wf font m) :
    Memory.wf font (Memory.write font m a b) := by
  obtain ⟨hp, hc⟩ := h
  unfold Memory.write
  split
  · rename_i ha
    split
    · exact ⟨Memory.pairwise_erase a hp, fun c hm => hc c (Memory.mem_erase hm)⟩
    · rename_i hb
      refine ⟨Memory.pairwise_insert a b hp, fun c hm => ?_⟩
      rcases Memory.mem_insert hm with rfl | hm
      · exact ⟨ha, hb⟩
      · exact hc c hm
  · exact ⟨hp, hc⟩

/-- A write of a range keeps the canonical form. -/
theorem Memory.wf_writeBytes {m : Memory} (a : Nat) (bs : List Byte) (h : Memory.wf font m) :
    Memory.wf font (Memory.writeBytes font m a bs) := by
  induction bs generalizing m a with
  | nil => exact h
  | cons b rest ih => exact ih (a + 1) (Memory.wf_write font a b h)

/-- Two canonical memories that read the same at every address are the same list. -/
theorem Memory.wf_ext {m m' : Memory} (h : Memory.wf font m) (h' : Memory.wf font m')
    (hr : ∀ a, Memory.read font m a = Memory.read font m' a) : m = m' := by
  induction m generalizing m' with
  | nil =>
    cases m' with
    | nil => rfl
    | cons c rest =>
      obtain ⟨k, v⟩ := c
      have := hr k
      simp only [Memory.read, if_true] at this
      exact absurd this.symm (h'.2 (k, v) (by simp)).2
  | cons c rest ih =>
    obtain ⟨k, v⟩ := c
    have before : ∀ (l : Memory) (a : Nat), (∀ c ∈ l, a < c.1) → Memory.read font l a = Memory.unlisted font a := by
      intro l a hl
      induction l with
      | nil => rfl
      | cons d r ihl =>
        have h1 := hl d (by simp)
        simp only [Memory.read]
        rw [if_neg (by omega), ihl fun c hc => hl c (by simp [hc])]
    obtain ⟨hk, hp⟩ := List.pairwise_cons.1 h.1
    have hv := (h.2 (k, v) (by simp)).2
    cases m' with
    | nil =>
      have := hr k
      simp only [Memory.read, if_true] at this
      exact absurd this hv
    | cons c' rest' =>
      obtain ⟨k', v'⟩ := c'
      obtain ⟨hk', hp'⟩ := List.pairwise_cons.1 h'.1
      have hv' := (h'.2 (k', v') (by simp)).2
      have e : k = k' := by
        rcases lt_trichotomy k k' with hlt | heq | hgt
        · have := hr k
          rw [before ((k', v') :: rest') k (by
            intro c hc
            rcases List.mem_cons.1 hc with rfl | hc
            · exact hlt
            · exact lt_trans hlt (hk' c hc))] at this
          simp only [Memory.read, if_true] at this
          exact absurd this hv
        · exact heq
        · have := hr k'
          rw [before ((k, v) :: rest) k' (by
            intro c hc
            rcases List.mem_cons.1 hc with rfl | hc
            · exact hgt
            · exact lt_trans hgt (hk c hc))] at this
          simp only [Memory.read, if_true] at this
          exact absurd this.symm hv'
      subst e
      have e2 : v = v' := by simpa [Memory.read] using hr k
      subst e2
      congr 1
      refine ih ⟨hp, fun c hc => h.2 c (by simp [hc])⟩ ⟨hp', fun c hc => h'.2 c (by simp [hc])⟩ fun a => ?_
      by_cases ha : k = a
      · subst ha
        rw [before rest k fun c hc => hk c hc, before rest' k fun c hc => hk' c hc]
      · simpa [Memory.read, ha] using hr a

/-- The memory after reset is canonical. -/
theorem State.wf_reset (p : Config.Params) : Memory.wf (State.resetWith p).params.fontData (State.resetWith p).mem :=
  ⟨List.Pairwise.nil, by simp [State.resetWith]⟩

/-- What a range write does to each byte of the machine's memory. -/
theorem State.readByte_writeBytes (s : State) (a a' : Nat) (bs : List Byte) (h : a + bs.length ≤ Config.memSize) :
    (s.writeBytes a bs).readByte a' = if a ≤ a' then bs.getD (a' - a) (s.readByte a') else s.readByte a' :=
  Memory.read_writeBytes s.params.fontData s.mem a a' bs h

/-- A state with the same memory and parameters reads the same. -/
theorem State.readByte_congr {s t : State} (h : t.mem = s.mem) (hp : t.params = s.params) (a : Nat) :
    t.readByte a = s.readByte a := by
  unfold State.readByte; rw [h, hp]

@[simp] theorem State.length_readBytes (s : State) (a n : Nat) : (s.readBytes a n).length = n := by
  simp [State.readBytes]

@[simp] theorem State.getElem_readBytes (s : State) (a n k : Nat) (h : k < (s.readBytes a n).length) :
    (s.readBytes a n)[k] = s.readByte (a + k) := by
  simp [State.readBytes]

@[simp] theorem State.getElem?_readBytes (s : State) (a n k : Nat) :
    (s.readBytes a n)[k]? = if k < n then some (s.readByte (a + k)) else none := by
  by_cases h : k < n <;> simp [State.readBytes, h]

end Sys2Proof.Machine
end

