-- ==== Sys2Proof/Laws/Registers.lean ====
section
/-! SUPPORT. The register file and the stack: reading a register after each update, and what a push and a pop can do. -/

namespace Sys2Proof.Machine

variable (s : State)

/-- Reading a register after a register write. -/
@[simp] theorem State.reg_setReg (r q : Nibble) (v : Byte) :
    (s.setReg r v).reg q = if q = r then v else s.reg q := by
  unfold State.reg State.setReg
  rw [Vector.getElem_set]
  by_cases h : q = r
  · simp [h]
  · have e : r.toNat ≠ q.toNat := fun e => h (BitVec.eq_of_toNat_eq e.symm)
    simp only [h, if_false, e]

/-- Reading a register after the flag is written. -/
@[simp] theorem State.reg_setFlag (q : Nibble) (v : Byte) :
    (s.setFlag v).reg q = if q = Config.flagReg then v else s.reg q := State.reg_setReg s _ q v

/-- A state with the same register file reads the same. -/
theorem State.reg_congr {s t : State} (h : t.x = s.x) (q : Nibble) : t.reg q = s.reg q := by
  unfold State.reg; simp only [h]

@[simp] theorem State.reg_setI (v : Word) (q : Nibble) : (s.setI v).reg q = s.reg q := rfl
@[simp] theorem State.reg_setPc (v : Word) (q : Nibble) : (s.setPc v).reg q = s.reg q := rfl
@[simp] theorem State.reg_advance (q : Nibble) : s.advance.reg q = s.reg q := rfl
@[simp] theorem State.reg_skipIf (c : Bool) (q : Nibble) : (s.skipIf c).reg q = s.reg q := by cases c <;> rfl
@[simp] theorem State.reg_writeBytes (a : Nat) (bs : List Byte) (q : Nibble) : (s.writeBytes a bs).reg q = s.reg q := rfl
@[simp] theorem State.reg_enterFault (code : Fault) (a : Word) (w : Option Word) (q : Nibble) :
    (s.enterFault code a w).reg q = s.reg q := rfl
@[simp] theorem State.reg_raise (code : Fault) (i : Instr) (q : Nibble) : (s.raise code i).reg q = s.reg q := rfl
@[simp] theorem State.reg_beginStep (d : Byte) (q : Nibble) : (s.beginStep d).reg q = s.reg q := rfl

/-- A register write writes the register file and nothing else. -/
theorem State.setReg_eq (r : Nibble) (v : Byte) : s.setReg r v = { s with x := (s.setReg r v).x } := rfl

/-- Two register files that read the same are the same. -/
theorem State.x_ext {s t : State} (h : ∀ q, t.reg q = s.reg q) : t.x = s.x := by
  apply Vector.ext
  intro k hk
  have := h (BitVec.ofNat 4 k)
  unfold State.reg at this
  simpa [Nat.mod_eq_of_lt hk] using this

/-- The block write of registers writes the register file and nothing else. -/
theorem State.setRegs_eq (k : Nat) (bs : List Byte) : ∃ x, s.setRegs k bs = { s with x := x } := by
  induction bs generalizing s k with
  | nil => exact ⟨s.x, rfl⟩
  | cons b rest ih =>
    obtain ⟨x, hx⟩ := ih (s.setReg (BitVec.ofNat 4 k) b) (k + 1)
    exact ⟨x, hx⟩

/-- What the block write of registers leaves in each register. -/
theorem State.reg_setRegs (k : Nat) (bs : List Byte) (hk : k + bs.length ≤ 16) (q : Nibble) :
    (s.setRegs k bs).reg q = if k ≤ q.toNat then bs.getD (q.toNat - k) (s.reg q) else s.reg q := by
  induction bs generalizing s k with
  | nil => simp [State.setRegs]
  | cons b rest ih =>
    simp only [List.length_cons] at hk
    rw [State.setRegs, ih _ _ (by omega), State.reg_setReg]
    have hq : q = BitVec.ofNat 4 k ↔ q.toNat = k := by
      constructor
      · rintro rfl; simp; omega
      · intro h; apply BitVec.eq_of_toNat_eq; simp; omega
    by_cases h1 : q.toNat = k
    · simp [hq, h1]
    · by_cases h3 : k + 1 ≤ q.toNat
      · obtain ⟨d, hd⟩ : ∃ d, q.toNat - k = d + 1 := ⟨q.toNat - k - 1, by omega⟩
        have h4 : q.toNat - (k + 1) = d := by omega
        have h5 : k ≤ q.toNat := by omega
        simp [h3, h5, hq, h1, hd, h4]
      · have h5 : ¬ k ≤ q.toNat := by omega
        simp [h3, h5, hq, h1]

/-- A push on a stack that is not full: the entry at SP is the value, SP is one more, nothing else changes. -/
theorem State.push_some (v : Word) (h : s.sp.val < 32) :
    s.push v = some { s with stack := s.stack.set s.sp.val v h, sp := ⟨s.sp.val + 1, Nat.succ_lt_succ h⟩ } := by
  unfold State.push; exact dif_pos h

/-- A push on a full stack does nothing. -/
theorem State.push_none (v : Word) (h : s.sp.val = 32) : s.push v = none := by
  unfold State.push; exact dif_neg (by simp [h])

/-- A pop on a stack that is not empty: the entry below SP, and SP is one less. -/
theorem State.pop_some (h : s.sp.val ≠ 0) :
    s.pop = some (s.stack[s.sp.val - 1]'(by have := s.sp.isLt; omega),
      { s with sp := ⟨s.sp.val - 1, by have := s.sp.isLt; omega⟩ }) := by
  unfold State.pop; exact dif_neg h

/-- A pop on an empty stack does nothing. -/
theorem State.pop_none (h : s.sp.val = 0) : s.pop = none := by
  unfold State.pop; exact dif_pos h

end Sys2Proof.Machine
end

