-- ==== Sys2Proof/Laws/Operations.lean ====
section
/-! SUPPORT. The value of each shared operand form, flag and field as a natural number, and what the fetch and the range and key
checks can answer: callers cite these instead of unfolding the operation. -/

namespace Sys2Proof

/-! ### Words and their fields (30_encoding.md R81, R82) -/

theorem toNat_wordOfBytes (hi lo : Byte) : (wordOfBytes hi lo).toNat = hi.toNat * 256 + lo.toNat := by
  have := hi.isLt
  have := lo.isLt
  simp only [wordOfBytes, BitVec.toNat_ofNat]
  omega

theorem toNat_fieldClass (w : Word) : (fieldClass w).toNat = w.toNat / 4096 := by
  have := w.isLt
  simp only [fieldClass, BitVec.toNat_ofNat]
  omega

theorem toNat_fieldX (w : Word) : (fieldX w).toNat = w.toNat / 256 % 16 := by
  simp only [fieldX, BitVec.toNat_ofNat]

theorem toNat_fieldY (w : Word) : (fieldY w).toNat = w.toNat / 16 % 16 := by
  simp only [fieldY, BitVec.toNat_ofNat]

theorem toNat_fieldN (w : Word) : (fieldN w).toNat = w.toNat % 16 := by
  simp only [fieldN, BitVec.toNat_ofNat]

theorem toNat_fieldNN (w : Word) : (fieldNN w).toNat = w.toNat % 256 := by
  simp only [fieldNN, BitVec.toNat_ofNat]

theorem toNat_fieldNNN (w : Word) : (fieldNNN w).toNat = w.toNat % 4096 := by
  simp only [fieldNNN, BitVec.toNat_ofNat]

theorem toNat_wordXYN (c x y n : Nibble) :
    (wordXYN c x y n).toNat = c.toNat * 4096 + x.toNat * 256 + y.toNat * 16 + n.toNat := by
  have := c.isLt
  have := x.isLt
  have := y.isLt
  have := n.isLt
  simp only [wordXYN, BitVec.toNat_ofNat]
  omega

theorem toNat_wordXNN (c x : Nibble) (nn : Byte) :
    (wordXNN c x nn).toNat = c.toNat * 4096 + x.toNat * 256 + nn.toNat := by
  have := c.isLt
  have := x.isLt
  have := nn.isLt
  simp only [wordXNN, BitVec.toNat_ofNat]
  omega

theorem toNat_wordNNN (c : Nibble) (nnn : Addr) : (wordNNN c nnn).toNat = c.toNat * 4096 + nnn.toNat := by
  have := c.isLt
  have := nnn.isLt
  simp only [wordNNN, BitVec.toNat_ofNat]
  omega

end Sys2Proof

namespace Sys2Proof.Machine

variable (s : State)

/-! ### Operands -/

theorem toNat_wrap8 (v : Nat) : (wrap8 v).toNat = v % 256 := by simp [wrap8]

theorem toNat_zextAddr (nnn : Addr) : (zextAddr nnn).toNat = nnn.toNat := by
  have := nnn.isLt
  simp only [zextAddr, BitVec.toNat_setWidth]
  omega

theorem toNat_zextByte (v : Byte) : (zextByte v).toNat = v.toNat := by
  have := v.isLt
  simp only [zextByte, BitVec.toNat_setWidth]
  omega

theorem toNat_zextNibble (k : Nibble) : (zextNibble k).toNat = k.toNat := by
  have := k.isLt
  simp only [zextNibble, BitVec.toNat_setWidth]
  omega

theorem toNat_fontGlyphAddr (v : Byte) : (fontGlyphAddr v).toNat = 0x50 + v.toNat % 16 * 5 := by
  have h : (v &&& 0x0F).toNat = v.toNat % 16 := Nat.and_two_pow_sub_one_eq_mod v.toNat 4
  simp only [fontGlyphAddr, h, Config.fontBase, Config.fontGlyphBytes, BitVec.toNat_ofNat]
  omega

@[simp] theorem length_decimalDigits (v : Byte) : (decimalDigits v).length = 3 := rfl

@[simp] theorem State.length_regsUpTo (x : Nibble) : (s.regsUpTo x).length = x.toNat + 1 := by
  simp [State.regsUpTo]

/-- The registers a block store stores, by position. -/
@[simp] theorem State.getElem?_regsUpTo (x : Nibble) (k : Nat) :
    (s.regsUpTo x)[k]? = if k ≤ x.toNat then some (s.reg (BitVec.ofNat 4 k)) else none := by
  by_cases h : k < x.toNat + 1
  · have h' : k ≤ x.toNat := by omega
    simp [State.regsUpTo, h, h']
  · have h' : ¬ k ≤ x.toNat := by omega
    simp [State.regsUpTo, h']

@[simp] theorem State.getElem_regsUpTo (x : Nibble) (k : Nat) (h : k < (s.regsUpTo x).length) :
    (s.regsUpTo x)[k] = s.reg (BitVec.ofNat 4 k) := by
  simp [State.regsUpTo]

/-- The range check holds exactly when the range is empty or ends in memory (20_memory.md R68). -/
theorem State.rangeInMemory_iff (n : Nat) : s.rangeInMemory n = true ↔ n = 0 ∨ s.i.toNat + n ≤ 4096 := by
  simp only [State.rangeInMemory, Bool.or_eq_true, beq_iff_eq, decide_eq_true_eq]
  rfl

/-- A key test reads the vector exactly when the register is at most 15 (45_keypad_timers.md R210). -/
theorem State.keyPressed_some (v : Byte) (h : v.toNat < 16) : s.keyPressed v = some (s.key[v.toNat]'h) := by
  unfold State.keyPressed; exact dif_pos h

theorem State.keyPressed_none (v : Byte) (h : 15 < v.toNat) : s.keyPressed v = none := by
  unfold State.keyPressed; exact dif_neg (show ¬ v.toNat < 16 by omega)

/-! ### Flags -/

theorem toNat_b2u (c : Bool) : (b2u c).toNat = if c = true then 1 else 0 := by cases c <;> rfl

theorem toNat_carryFlag (a b : Byte) : (carryFlag a b).toNat = if 255 < a.toNat + b.toNat then 1 else 0 := by
  simp only [carryFlag, toNat_b2u, decide_eq_true_eq]

theorem toNat_notBorrowFlag (a b : Byte) : (notBorrowFlag a b).toNat = if a.toNat < b.toNat then 0 else 1 := by
  by_cases h : a.toNat < b.toNat <;> simp [notBorrowFlag, toNat_b2u, h]

theorem toNat_bitFlag (v : Byte) (k : Nat) : (bitFlag v k).toNat = v.toNat / 2 ^ k % 2 := by
  have := Nat.mod_two_eq_zero_or_one (v.toNat / 2 ^ k)
  simp only [bitFlag, toNat_b2u, BitVec.getLsbD, Nat.testBit_eq_decide_div_mod_eq, decide_eq_true_eq]
  split <;> omega

theorem toNat_beyondMemoryFlag (n : Nat) : (beyondMemoryFlag n).toNat = if 4096 ≤ n then 1 else 0 := by
  simp only [beyondMemoryFlag, toNat_b2u, decide_eq_true_eq]
  rfl

/-! ### The fetch (40_step_cycle.md R101) -/

theorem State.fetch_some (h : s.pc.toNat + 1 < 4096) :
    s.fetch = some (wordOfBytes (s.readByte s.pc.toNat) (s.readByte (s.pc.toNat + 1))) := by
  unfold State.fetch; exact if_pos h

theorem State.fetch_none (h : 4096 ≤ s.pc.toNat + 1) : s.fetch = none := by
  unfold State.fetch; exact if_neg (show ¬ s.pc.toNat + 1 < 4096 by omega)

/-- Two states with the same pc and the same two bytes there fetch the same word. -/
theorem State.fetch_congr {s t : State} (hpc : t.pc = s.pc) (h0 : t.readByte s.pc.toNat = s.readByte s.pc.toNat)
    (h1 : t.readByte (s.pc.toNat + 1) = s.readByte (s.pc.toNat + 1)) : t.fetch = s.fetch := by
  unfold State.fetch; rw [hpc, h0, h1]

/-! ### The cycle (40_step_cycle.md R100) -/

/-- A Step of a faulted block changes nothing. -/
theorem stepDraw_faulted (d : Byte) (h : s.fault ≠ none) : stepDraw d s = .next s := by
  unfold stepDraw
  cases hf : s.fault with
  | none => exact absurd hf h
  | some r => rfl

/-- A Step of a block that is not faulted runs the fetched word, with the random byte taken. -/
theorem stepDraw_fetched (d : Byte) (w : Word) (h : s.fault = none) (hw : s.fetch = some w) :
    stepDraw d s = executeWord w (s.beginStep d) := by
  unfold stepDraw; rw [h, hw]

/-- A Step of a block that is not faulted and whose fetch is past memory records FETCH_OOB. -/
theorem stepDraw_unfetched (d : Byte) (h : s.fault = none) (hw : s.fetch = none) :
    stepDraw d s = .next ((s.beginStep d).enterFault .fetchOob s.pc none) := by
  unfold stepDraw; rw [h, hw]

/-- A word that decodes is executed with pc advanced. -/
theorem executeWord_ok {w : Word} {i : Instr} (h : decodeWord w = .ok i) : executeWord w s = exec i s.advance := by
  unfold executeWord; rw [h]

/-- A word that does not decode only advances pc. -/
theorem executeWord_error {w : Word} {e : DecodeError} (h : decodeWord w = .error e) :
    executeWord w s = .next s.advance := by
  unfold executeWord; rw [h]

end Sys2Proof.Machine
end

