-- ==== Sys2Proof/Laws/PerInstr.lean ====
section
/-! SUPPORT. One family of statements about every instruction as syntax: the word an instruction encodes to is of its own row
of the opcode map (30_encoding.md R84), with one lemma per constructor. -/

namespace Sys2Proof.Laws

/-- The word of the instruction passes the mask and match test of its row (R84). -/
def EncodingInRow.Statement (i : Instr) : Prop := (rowOf i).selects (encode i) = true

theorem EncodingInRow.cls (x : Nibble) : EncodingInRow.Statement (.cls x) := by
  simp only [EncodingInRow.Statement, OpcodeRow.selects, rowOf, encode, wordXNN_and_low]
  decide

theorem EncodingInRow.ret (x : Nibble) : EncodingInRow.Statement (.ret x) := by
  simp only [EncodingInRow.Statement, OpcodeRow.selects, rowOf, encode, wordXNN_and_low]
  decide

theorem EncodingInRow.jp (nnn : Addr) : EncodingInRow.Statement (.jp nnn) := by
  simp only [EncodingInRow.Statement, OpcodeRow.selects, rowOf, encode, wordNNN_and_class]
  decide

theorem EncodingInRow.call (nnn : Addr) : EncodingInRow.Statement (.call nnn) := by
  simp only [EncodingInRow.Statement, OpcodeRow.selects, rowOf, encode, wordNNN_and_class]
  decide

theorem EncodingInRow.seImm (x : Nibble) (nn : Byte) : EncodingInRow.Statement (.seImm x nn) := by
  simp only [EncodingInRow.Statement, OpcodeRow.selects, rowOf, encode, wordXNN_and_class]
  decide

theorem EncodingInRow.sneImm (x : Nibble) (nn : Byte) : EncodingInRow.Statement (.sneImm x nn) := by
  simp only [EncodingInRow.Statement, OpcodeRow.selects, rowOf, encode, wordXNN_and_class]
  decide

theorem EncodingInRow.seReg (x : Nibble) (y : Nibble) (n : Nibble) : EncodingInRow.Statement (.seReg x y n) := by
  simp only [EncodingInRow.Statement, OpcodeRow.selects, rowOf, encode, wordXYN_and_class]
  decide

theorem EncodingInRow.ldImm (x : Nibble) (nn : Byte) : EncodingInRow.Statement (.ldImm x nn) := by
  simp only [EncodingInRow.Statement, OpcodeRow.selects, rowOf, encode, wordXNN_and_class]
  decide

theorem EncodingInRow.addImm (x : Nibble) (nn : Byte) : EncodingInRow.Statement (.addImm x nn) := by
  simp only [EncodingInRow.Statement, OpcodeRow.selects, rowOf, encode, wordXNN_and_class]
  decide

theorem EncodingInRow.ldReg (x : Nibble) (y : Nibble) : EncodingInRow.Statement (.ldReg x y) := by
  simp only [EncodingInRow.Statement, OpcodeRow.selects, rowOf, encode, wordXYN_and_N]
  decide

theorem EncodingInRow.or (x : Nibble) (y : Nibble) : EncodingInRow.Statement (.or x y) := by
  simp only [EncodingInRow.Statement, OpcodeRow.selects, rowOf, encode, wordXYN_and_N]
  decide

theorem EncodingInRow.and (x : Nibble) (y : Nibble) : EncodingInRow.Statement (.and x y) := by
  simp only [EncodingInRow.Statement, OpcodeRow.selects, rowOf, encode, wordXYN_and_N]
  decide

theorem EncodingInRow.xor (x : Nibble) (y : Nibble) : EncodingInRow.Statement (.xor x y) := by
  simp only [EncodingInRow.Statement, OpcodeRow.selects, rowOf, encode, wordXYN_and_N]
  decide

theorem EncodingInRow.addReg (x : Nibble) (y : Nibble) : EncodingInRow.Statement (.addReg x y) := by
  simp only [EncodingInRow.Statement, OpcodeRow.selects, rowOf, encode, wordXYN_and_N]
  decide

theorem EncodingInRow.sub (x : Nibble) (y : Nibble) : EncodingInRow.Statement (.sub x y) := by
  simp only [EncodingInRow.Statement, OpcodeRow.selects, rowOf, encode, wordXYN_and_N]
  decide

theorem EncodingInRow.shr (x : Nibble) (y : Nibble) : EncodingInRow.Statement (.shr x y) := by
  simp only [EncodingInRow.Statement, OpcodeRow.selects, rowOf, encode, wordXYN_and_N]
  decide

theorem EncodingInRow.subn (x : Nibble) (y : Nibble) : EncodingInRow.Statement (.subn x y) := by
  simp only [EncodingInRow.Statement, OpcodeRow.selects, rowOf, encode, wordXYN_and_N]
  decide

theorem EncodingInRow.shl (x : Nibble) (y : Nibble) : EncodingInRow.Statement (.shl x y) := by
  simp only [EncodingInRow.Statement, OpcodeRow.selects, rowOf, encode, wordXYN_and_N]
  decide

theorem EncodingInRow.sneReg (x : Nibble) (y : Nibble) (n : Nibble) : EncodingInRow.Statement (.sneReg x y n) := by
  simp only [EncodingInRow.Statement, OpcodeRow.selects, rowOf, encode, wordXYN_and_class]
  decide

theorem EncodingInRow.ldI (nnn : Addr) : EncodingInRow.Statement (.ldI nnn) := by
  simp only [EncodingInRow.Statement, OpcodeRow.selects, rowOf, encode, wordNNN_and_class]
  decide

theorem EncodingInRow.jpV0 (nnn : Addr) : EncodingInRow.Statement (.jpV0 nnn) := by
  simp only [EncodingInRow.Statement, OpcodeRow.selects, rowOf, encode, wordNNN_and_class]
  decide

theorem EncodingInRow.rnd (x : Nibble) (nn : Byte) : EncodingInRow.Statement (.rnd x nn) := by
  simp only [EncodingInRow.Statement, OpcodeRow.selects, rowOf, encode, wordXNN_and_class]
  decide

theorem EncodingInRow.drw (x : Nibble) (y : Nibble) (n : Nibble) : EncodingInRow.Statement (.drw x y n) := by
  simp only [EncodingInRow.Statement, OpcodeRow.selects, rowOf, encode, wordXYN_and_class]
  decide

theorem EncodingInRow.skp (x : Nibble) : EncodingInRow.Statement (.skp x) := by
  simp only [EncodingInRow.Statement, OpcodeRow.selects, rowOf, encode, wordXNN_and_low]
  decide

theorem EncodingInRow.sknp (x : Nibble) : EncodingInRow.Statement (.sknp x) := by
  simp only [EncodingInRow.Statement, OpcodeRow.selects, rowOf, encode, wordXNN_and_low]
  decide

theorem EncodingInRow.ldVxDt (x : Nibble) : EncodingInRow.Statement (.ldVxDt x) := by
  simp only [EncodingInRow.Statement, OpcodeRow.selects, rowOf, encode, wordXNN_and_low]
  decide

theorem EncodingInRow.ldDtVx (x : Nibble) : EncodingInRow.Statement (.ldDtVx x) := by
  simp only [EncodingInRow.Statement, OpcodeRow.selects, rowOf, encode, wordXNN_and_low]
  decide

theorem EncodingInRow.ldStVx (x : Nibble) : EncodingInRow.Statement (.ldStVx x) := by
  simp only [EncodingInRow.Statement, OpcodeRow.selects, rowOf, encode, wordXNN_and_low]
  decide

theorem EncodingInRow.addIVx (x : Nibble) : EncodingInRow.Statement (.addIVx x) := by
  simp only [EncodingInRow.Statement, OpcodeRow.selects, rowOf, encode, wordXNN_and_low]
  decide

theorem EncodingInRow.ldVxK (x : Nibble) : EncodingInRow.Statement (.ldVxK x) := by
  simp only [EncodingInRow.Statement, OpcodeRow.selects, rowOf, encode, wordXNN_and_low]
  decide

theorem EncodingInRow.ldFVx (x : Nibble) : EncodingInRow.Statement (.ldFVx x) := by
  simp only [EncodingInRow.Statement, OpcodeRow.selects, rowOf, encode, wordXNN_and_low]
  decide

theorem EncodingInRow.ldBVx (x : Nibble) : EncodingInRow.Statement (.ldBVx x) := by
  simp only [EncodingInRow.Statement, OpcodeRow.selects, rowOf, encode, wordXNN_and_low]
  decide

theorem EncodingInRow.ldMemVx (x : Nibble) : EncodingInRow.Statement (.ldMemVx x) := by
  simp only [EncodingInRow.Statement, OpcodeRow.selects, rowOf, encode, wordXNN_and_low]
  decide

theorem EncodingInRow.ldVxMem (x : Nibble) : EncodingInRow.Statement (.ldVxMem x) := by
  simp only [EncodingInRow.Statement, OpcodeRow.selects, rowOf, encode, wordXNN_and_low]
  decide

end Sys2Proof.Laws
end

