-- ==== Sys2Proof/Machine/Assembler.lean ====
section
/-! DEFINITION. The spec's assembler notation (30_encoding.md R89): how an instruction is written in the syntax column of R84,
and what the items of a program listing place in the image that Load copies. It is notation only: the machine reads words
(decision D25). -/

namespace Sys2Proof.Machine

/-- One hexadecimal digit. -/
def hexDigit (n : Nibble) : String :=
  (["0", "1", "2", "3", "4", "5", "6", "7"] ++ ["8", "9", "A", "B", "C", "D", "E", "F"]).getD n.toNat ""

/-- A `nibble` operand. -/
def textNibble (n : Nibble) : String := "0x" ++ hexDigit n

/-- A `byte` operand, two digits. -/
def textByte (b : Byte) : String :=
  "0x" ++ hexDigit (BitVec.ofNat 4 (b.toNat / 16)) ++ hexDigit (BitVec.ofNat 4 b.toNat)

/-- An `addr` operand, three digits. -/
def textAddr (a : Addr) : String :=
  "0x" ++ hexDigit (BitVec.ofNat 4 (a.toNat / 256)) ++ hexDigit (BitVec.ofNat 4 (a.toNat / 16)) ++
    hexDigit (BitVec.ofNat 4 a.toNat)

/-- `V0` to `VF`. -/
def textReg (x : Nibble) : String := "V" ++ hexDigit x

/-- Two register operands. -/
def textRegs (x y : Nibble) : String := textReg x ++ ", " ++ textReg y

/-- A shift's operands: the optional second one is written when the Y nibble is not 0. -/
def textShift (x y : Nibble) : String := if y = 0 then textReg x else textRegs x y

/-- An instruction in the syntax column of R84. An ignored nibble is not written. -/
def instrText : Instr → String
  | .cls _ => "CLS"
  | .ret _ => "RET"
  | .jp nnn => "JP " ++ textAddr nnn
  | .call nnn => "CALL " ++ textAddr nnn
  | .seImm x nn => "SE " ++ textReg x ++ ", " ++ textByte nn
  | .sneImm x nn => "SNE " ++ textReg x ++ ", " ++ textByte nn
  | .seReg x y _ => "SE " ++ textRegs x y
  | .ldImm x nn => "LD " ++ textReg x ++ ", " ++ textByte nn
  | .addImm x nn => "ADD " ++ textReg x ++ ", " ++ textByte nn
  | .ldReg x y => "LD " ++ textRegs x y
  | .or x y => "OR " ++ textRegs x y
  | .and x y => "AND " ++ textRegs x y
  | .xor x y => "XOR " ++ textRegs x y
  | .addReg x y => "ADD " ++ textRegs x y
  | .sub x y => "SUB " ++ textRegs x y
  | .shr x y => "SHR " ++ textShift x y
  | .subn x y => "SUBN " ++ textRegs x y
  | .shl x y => "SHL " ++ textShift x y
  | .sneReg x y _ => "SNE " ++ textRegs x y
  | .ldI nnn => "LD I, " ++ textAddr nnn
  | .jpV0 nnn => "JP V0, " ++ textAddr nnn
  | .rnd x nn => "RND " ++ textReg x ++ ", " ++ textByte nn
  | .drw x y n => "DRW " ++ textRegs x y ++ ", " ++ textNibble n
  | .skp x => "SKP " ++ textReg x
  | .sknp x => "SKNP " ++ textReg x
  | .ldVxDt x => "LD " ++ textReg x ++ ", DT"
  | .ldDtVx x => "LD DT, " ++ textReg x
  | .ldStVx x => "LD ST, " ++ textReg x
  | .addIVx x => "ADD I, " ++ textReg x
  | .ldVxK x => "LD " ++ textReg x ++ ", K"
  | .ldFVx x => "LD F, " ++ textReg x
  | .ldBVx x => "LD B, " ++ textReg x
  | .ldMemVx x => "LD [I], " ++ textReg x
  | .ldVxMem x => "LD " ++ textReg x ++ ", [I]"

/-- The four instructions whose operand is an address, which may be written as a label. -/
inductive AddrForm where
  | jp
  | call
  | ldI
  | jpV0
  deriving DecidableEq, Repr

/-- An item of a listing (R89). -/
inductive AsmItem where
  /-- An instruction. -/
  | instr (i : Instr)
  /-- An instruction whose address operand is a label. -/
  | labelled (form : AddrForm) (name : String)
  /-- `DW`: a 16-bit word, big-endian. -/
  | dw (w : Word)
  /-- `DB`: one byte. -/
  | db (b : Byte)
  /-- `name:`, which stands for the address of the next item. -/
  | label (name : String)
  deriving DecidableEq, Repr

/-- How many bytes an item places. -/
def AsmItem.size : AsmItem → Nat
  | .instr _ => 2
  | .labelled _ _ => 2
  | .dw _ => 2
  | .db _ => 1
  | .label _ => 0

/-- The addresses a label is defined at in a listing that starts at `a`: that of the next item (R89). A label with no item after
it has no next item, and R89 gives it no address: DESIGN CHOICE, unsafe, log entry 30, it stands for the address just past the
listing's last byte. -/
def labelAddresses (name : String) (a : Nat) : List AsmItem → List Nat
  | [] => []
  | .label n :: rest => if n = name then a :: labelAddresses name a rest else labelAddresses name a rest
  | item :: rest => labelAddresses name (a + item.size) rest

/-- The address operand a label stands for in a listing that starts at `a`. R89 does not say what a label stands for when the
listing defines it twice or not at all, or when its address does not fit the 12 bits of `addr`: DESIGN CHOICE, safe, log
entry 29, the listing is refused. -/
def labelTarget (name : String) (a : Nat) (listing : List AsmItem) : Option Addr :=
  match labelAddresses name a listing with
  | [k] => if k < 4096 then some (BitVec.ofNat 12 k) else none
  | _ => none

/-- The instruction of a form with its address. -/
def AddrForm.instr : AddrForm → Addr → Instr
  | .jp, a => .jp a
  | .call, a => .call a
  | .ldI, a => .ldI a
  | .jpV0, a => .jpV0 a

/-- The bytes an item places, none when it names a label that has no target, or is an instruction with a nonzero ignored
nibble, which no text writes. -/
def AsmItem.bytes (listing : List AsmItem) : AsmItem → Option (List Byte)
  | .instr i => if i.assembled then some (bytesOfWord (encode i)) else none
  | .labelled form name =>
    (labelTarget name Config.progBase listing).map fun a => bytesOfWord (encode (form.instr a))
  | .dw w => some (bytesOfWord w)
  | .db b => some [b]
  | .label _ => some []

/-- The bytes of the items of a listing, in order, none when one of them has none. -/
def assembleItems (listing : List AsmItem) : List AsmItem → Option (List Byte)
  | [] => some []
  | item :: rest =>
    match item.bytes listing, assembleItems listing rest with
    | some b, some bs => some (b ++ bs)
    | _, _ => none

/-- The image of a listing, which Load places from 0x200 (20_memory.md R66). -/
def assemble (listing : List AsmItem) : Option (List Byte) := assembleItems listing listing

end Sys2Proof.Machine
end

