-- ==== Sys2Proof/Tests/Slice0.lean ====
section
/-! SUPPORT. The model's own tests: well-formedness, one decoding per constructor with the word written out from the encoding
column of spec/opcode_table.json, single Steps and host commands with the results that 95_test_vectors.md lists, and a
witness for the hypotheses of every statement. -/

namespace Sys2Proof.Tests

open Sys2Proof Sys2Proof.Machine

/-! ### Well-formedness (30_encoding.md R83, R89) -/

/-- The machine takes a word whose ignored nibble is not 0 (R83). -/
theorem test_wellFormed_ignored_nibble : (Instr.cls 5).wellFormed = true := by decide

theorem test_assembled_refuses_cls : (Instr.cls 5).assembled = false := by decide
theorem test_assembled_refuses_ret : (Instr.ret 10).assembled = false := by decide
theorem test_assembled_refuses_seReg : (Instr.seReg 1 2 15).assembled = false := by decide
theorem test_assembled_refuses_sneReg : (Instr.sneReg 7 8 6).assembled = false := by decide
theorem test_assembled_accepts : (Instr.seReg 1 2 0).assembled = true := by decide

/-! ### Decoding (30_encoding.md R84) -/

theorem test_decode_cls : decodeWord 0b0000010111100000 = .ok (.cls 5) := by decide
theorem test_decode_ret : decodeWord 0b0000101011101110 = .ok (.ret 10) := by decide
theorem test_decode_jp : decodeWord 0b0001001100000000 = .ok (.jp 0x300) := by decide
theorem test_decode_call : decodeWord 0b0010010000001010 = .ok (.call 0x40A) := by decide
theorem test_decode_seImm : decodeWord 0b0011001101000010 = .ok (.seImm 3 0x42) := by decide
theorem test_decode_sneImm : decodeWord 0b0100110010000001 = .ok (.sneImm 12 0x81) := by decide
theorem test_decode_seReg : decodeWord 0b0101000100101111 = .ok (.seReg 1 2 15) := by decide
theorem test_decode_ldImm : decodeWord 0b0110101000101111 = .ok (.ldImm 10 0x2F) := by decide
theorem test_decode_addImm : decodeWord 0b0111001011111110 = .ok (.addImm 2 0xFE) := by decide
theorem test_decode_ldReg : decodeWord 0b1000011010010000 = .ok (.ldReg 6 9) := by decide
theorem test_decode_or : decodeWord 0b1000011010010001 = .ok (.or 6 9) := by decide
theorem test_decode_and : decodeWord 0b1000011010010010 = .ok (.and 6 9) := by decide
theorem test_decode_xor : decodeWord 0b1000011010010011 = .ok (.xor 6 9) := by decide
theorem test_decode_addReg : decodeWord 0b1000001111010100 = .ok (.addReg 3 13) := by decide
theorem test_decode_sub : decodeWord 0b1000001111010101 = .ok (.sub 3 13) := by decide
theorem test_decode_shr : decodeWord 0b1000010010100110 = .ok (.shr 4 10) := by decide
theorem test_decode_subn : decodeWord 0b1000001111010111 = .ok (.subn 3 13) := by decide
theorem test_decode_shl : decodeWord 0b1000010100011110 = .ok (.shl 5 1) := by decide
theorem test_decode_sneReg : decodeWord 0b1001011110000110 = .ok (.sneReg 7 8 6) := by decide
theorem test_decode_ldI : decodeWord 0b1010000100100011 = .ok (.ldI 0x123) := by decide
theorem test_decode_jpV0 : decodeWord 0b1011111111111110 = .ok (.jpV0 0xFFE) := by decide
theorem test_decode_rnd : decodeWord 0b1100001100001111 = .ok (.rnd 3 0x0F) := by decide
theorem test_decode_drw : decodeWord 0b1101001000110101 = .ok (.drw 2 3 5) := by decide
theorem test_decode_skp : decodeWord 0b1110101110011110 = .ok (.skp 11) := by decide
theorem test_decode_sknp : decodeWord 0b1110110110100001 = .ok (.sknp 13) := by decide
theorem test_decode_ldVxDt : decodeWord 0b1111001100000111 = .ok (.ldVxDt 3) := by decide
theorem test_decode_ldDtVx : decodeWord 0b1111111000010101 = .ok (.ldDtVx 14) := by decide
theorem test_decode_ldStVx : decodeWord 0b1111000100011000 = .ok (.ldStVx 1) := by decide
theorem test_decode_addIVx : decodeWord 0b1111001000011110 = .ok (.addIVx 2) := by decide
theorem test_decode_ldVxK : decodeWord 0b1111010000001010 = .ok (.ldVxK 4) := by decide
theorem test_decode_ldFVx : decodeWord 0b1111011100101001 = .ok (.ldFVx 7) := by decide
theorem test_decode_ldBVx : decodeWord 0b1111100000110011 = .ok (.ldBVx 8) := by decide
theorem test_decode_ldMemVx : decodeWord 0b1111001001010101 = .ok (.ldMemVx 2) := by decide
theorem test_decode_ldVxMem : decodeWord 0b1111110001100101 = .ok (.ldVxMem 12) := by decide
/-- R67: the byte at the lower address is the upper half of the word. -/
theorem test_decode_bytes : decode [0x61, 0x23, 0x00] = .ok (.ldImm 1 0x23, [0x00]) := by decide

theorem test_decode_truncated : decode [0x61] = .error .truncated := by decide

/-- 95 S8: a class 8 word with N = 8 is of no row. -/
theorem test_decode_unmatched : decodeWord 0x8018 = .error (.unmatched 0x8018) := by decide

theorem test_decodeTableWord : decodeTableWord 16 0xA123 = some (.ldI 0x123) := by decide

/-! ### Single Steps -/

/-- The part `f` of the state one Step after `s` with the word placed at its pc and the random byte `d`. -/
def after {α : Type} (d : Byte) (s : State) (w : Word) (f : State → α) : Option α :=
  match stepDraw d (s.withFetchWord 16 w.toNat) with
  | .next t => some (f t)
  | .fault _ => none
  | .refused _ => none

/-- 95 S1: an odd address is fetched like any other. -/
theorem test_S1_odd_address :
    after 0x5A (State.reset.setPc 0x201) 0x6123 (fun t => (t.reg 1, t.pc)) =
      some (0x23, 0x203) := by decide

/-- 95 S2: the last full word of memory is fetchable. -/
theorem test_S2_last_word :
    after 0x5A (State.reset.setPc 0xFFE) 0x1234 (fun t => (t.pc, t.fault)) =
      some (0x234, none) := by decide

/-- 95 S7: the conventional SYS word is a decode miss. -/
theorem test_S7_sys_is_a_miss :
    after 0x5A (State.reset) 0x0123 (fun t => (t.pc, t.fault)) =
      some (0x202, none) := by decide

/-- 95 S9: class 8 with N = 15 is a decode miss. -/
theorem test_S9_class8_miss :
    after 0x5A ((State.reset.setReg 0 1).setReg 1 2) 0x801F (fun t => (t.pc, t.reg 0, t.reg 15, t.fault)) =
      some (0x202, 1, 0, none) := by decide

/-- 95 S10. -/
theorem test_S10_classE_miss :
    after 0x5A (State.reset.setReg 1 5) 0xE19F (fun t => (t.pc, t.fault)) =
      some (0x202, none) := by decide

/-- 95 S11. -/
theorem test_S11_classF_miss :
    after 0x5A (State.reset) 0xF0FF (fun t => (t.pc, t.fault)) =
      some (0x202, none) := by decide

/-- 95 D-1: CLS turns both corners off and sets dirty. -/
theorem test_D1_cls :
    after 0x5A ({ State.reset with pix := setPixel (setPixel clearGrid 0 0 true) 63 31 true }) 0x00E0 (fun t => (getPixel t.pix 0 0, getPixel t.pix 63 31, t.dirty, t.pc)) =
      some (false, false, true, 0x202) := by decide

/-- 95 D-2: the X nibble of CLS is ignored. -/
theorem test_D2_cls_ignores_X :
    after 0x5A ({ State.reset with pix := setPixel (setPixel clearGrid 0 0 true) 63 31 true }) 0x05E0 (fun t => (getPixel t.pix 0 0, t.dirty, t.pc)) =
      some (false, true, 0x202) := by decide

/-- 95 D-5: a draw over a pixel that is on turns it off and reports it. -/
theorem test_D5_draw_collides :
    after 0x5A ({ (State.reset.setI 0x300).writeBytes 0x300 [0xF0] with pix := setPixel clearGrid 2 0 true }) 0xD011 (fun t => ([getPixel t.pix 0 0, getPixel t.pix 1 0, getPixel t.pix 2 0, getPixel t.pix 3 0, getPixel t.pix 4 0], t.reg 15, t.dirty)) =
      some ([true, true, false, true, false], 1, true) := by decide

/-- 95 D-7: columns wrap in their own row. -/
theorem test_D7_draw_wraps_column :
    after 0x5A (((State.reset.setReg 0 0x3F).setI 0x300).writeBytes 0x300 [0xC0]) 0xD011 (fun t => (getPixel t.pix 63 0, getPixel t.pix 0 0, getPixel t.pix 0 1, t.reg 15)) =
      some (true, true, false, 0) := by decide

/-- 95 C-2: RET with a nonzero X nibble. -/
theorem test_C2_ret :
    after 0x5A ({ (State.reset.setPc 0x300) with stack := (State.reset.stack.set 0 0x204).set 1 0x40A, sp := 2 }) 0x0AEE (fun t => (t.sp.val, t.pc, t.stack[1])) =
      some (1, 0x40A, 0x40A) := by decide

/-- 95 C-3: RET with SP = 0. -/
theorem test_C3_ret_underflow :
    after 0x5A (State.reset.setPc 0x300) 0x00EE (fun t => (t.fault, t.sp.val, t.pc)) =
      some (some { code := .stackUnderflow, pcAtFetch := 0x300, word := some 0x00EE }, 0, 0x300) := by decide

/-- 95 C-4. -/
theorem test_C4_jp :
    after 0x5A (State.reset.setPc 0x250) 0x1300 (fun t => t.pc) =
      some 0x300 := by decide

/-- 95 C-6: CALL saves the address after itself. -/
theorem test_C6_call :
    after 0x5A (State.reset.setPc 0x202) 0x2400 (fun t => (t.stack[0], t.sp.val, t.pc)) =
      some (0x204, 1, 0x400) := by decide

/-- 95 C-7: CALL with SP = 32. -/
theorem test_C7_call_overflow :
    after 0x5A ({ State.reset with sp := 32 }) 0x2400 (fun t => (t.fault, t.sp.val, t.pc)) =
      some (some { code := .stackOverflow, pcAtFetch := 0x200, word := some 0x2400 }, 32, 0x200) := by decide

/-- 95 C-8. -/
theorem test_C8_seImm :
    after 0x5A (State.reset.setReg 3 0x42) 0x3342 (fun t => t.pc) =
      some 0x204 := by decide

/-- 95 C-9. -/
theorem test_C9_seImm_differs :
    after 0x5A (State.reset.setReg 3 0x41) 0x3342 (fun t => t.pc) =
      some 0x202 := by decide

/-- 95 C-10. -/
theorem test_C10_sneImm :
    after 0x5A (State.reset.setReg 3 0x41) 0x4342 (fun t => t.pc) =
      some 0x204 := by decide

/-- 95 C-11. -/
theorem test_C11_sneImm_equal :
    after 0x5A (State.reset.setReg 3 0x42) 0x4342 (fun t => t.pc) =
      some 0x202 := by decide

/-- 95 C-13. -/
theorem test_C13_seReg_ignores_N :
    after 0x5A ((State.reset.setReg 1 7).setReg 2 7) 0x512F (fun t => t.pc) =
      some 0x204 := by decide

/-- 95 C-14. -/
theorem test_C14_seReg_differs :
    after 0x5A ((State.reset.setReg 1 7).setReg 2 8) 0x5120 (fun t => t.pc) =
      some 0x202 := by decide

/-- 95 C-15. -/
theorem test_C15_sneReg :
    after 0x5A ((State.reset.setReg 1 7).setReg 2 8) 0x9120 (fun t => t.pc) =
      some 0x204 := by decide

/-- 95 C-16. -/
theorem test_C16_sneReg_same :
    after 0x5A (State.reset.setReg 1 7) 0x9110 (fun t => t.pc) =
      some 0x202 := by decide

/-- 95 C-18: the sum is not cut to 12 bits. -/
theorem test_C18_jpV0_not_cut :
    after 0x5A (State.reset.setReg 0 0xFF) 0xBFFF (fun t => t.pc) =
      some 0x10FE := by decide

/-- 95 A-1. -/
theorem test_A1_ldImm :
    after 0x5A (State.reset) 0x6A2F (fun t => (t.reg 10, t.pc)) =
      some (0x2F, 0x202) := by decide

/-- 95 A-3: ADD of an immediate wraps and writes no flag. -/
theorem test_A3_addImm_no_flag :
    after 0x5A ((State.reset.setReg 2 2).setReg 15 0x55) 0x72FF (fun t => (t.reg 2, t.reg 15)) =
      some (1, 0x55) := by decide

/-- 95 A-5. -/
theorem test_A5_ldReg :
    after 0x5A (State.reset.setReg 1 0x33) 0x8010 (fun t => (t.reg 0, t.reg 1)) =
      some (0x33, 0x33) := by decide

/-- 95 A-6. -/
theorem test_A6_or :
    after 0x5A (((State.reset.setReg 0 0xF0).setReg 1 0x0C).setReg 15 0x77) 0x8011 (fun t => (t.reg 0, t.reg 15)) =
      some (0xFC, 0x77) := by decide

/-- 95 A-7. -/
theorem test_A7_and :
    after 0x5A ((State.reset.setReg 0 0xF0).setReg 1 0x3C) 0x8012 (fun t => (t.reg 0, t.reg 1)) =
      some (0x30, 0x3C) := by decide

/-- 95 A-8. -/
theorem test_A8_xor :
    after 0x5A ((State.reset.setReg 0 0xF0).setReg 1 0x3C) 0x8013 (fun t => (t.reg 0, t.reg 1)) =
      some (0xCC, 0x3C) := by decide

/-- 95 L1.6: 0xFF + 0x01 is 0x00 with VF = 1. -/
theorem test_L1_6_addReg :
    after 0x5A ((State.reset.setReg 0 0xFF).setReg 1 1) 0x8014 (fun t => (t.reg 0, t.reg 15, t.pc)) =
      some (0, 1, 0x202) := by decide

/-- 95 A-12: the carry is written last. -/
theorem test_A12_addReg_flag_last :
    after 0x5A ((State.reset.setReg 15 0xFF).setReg 1 1) 0x8F14 (fun t => t.reg 15) =
      some 1 := by decide

/-- 95 L1.7: 0x01 - 0x02 is 0xFF with VF = 0. -/
theorem test_L1_7_sub :
    after 0x5A ((State.reset.setReg 0 1).setReg 1 2) 0x8015 (fun t => (t.reg 0, t.reg 15)) =
      some (0xFF, 0) := by decide

/-- 95 A-15: equal is no borrow. -/
theorem test_A15_sub_equal :
    after 0x5A ((State.reset.setReg 0 5).setReg 1 5) 0x8015 (fun t => (t.reg 0, t.reg 15)) =
      some (0, 1) := by decide

/-- 95 A-19. -/
theorem test_A19_shr_ignores_Y :
    after 0x5A ((State.reset.setReg 4 0x80).setReg 10 0xFF) 0x84A6 (fun t => (t.reg 4, t.reg 15)) =
      some (0x40, 0) := by decide

/-- 95 A-20: the flag itself is shifted. -/
theorem test_A20_shr_of_VF :
    after 0x5A (State.reset.setReg 15 3) 0x8F06 (fun t => t.reg 15) =
      some 0 := by decide

/-- 95 A-21. -/
theorem test_A21_subn :
    after 0x5A ((State.reset.setReg 0 2).setReg 1 1) 0x8017 (fun t => (t.reg 0, t.reg 15)) =
      some (0xFF, 0) := by decide

/-- 95 A-22. -/
theorem test_A22_subn_no_borrow :
    after 0x5A ((State.reset.setReg 0 1).setReg 1 3) 0x8017 (fun t => (t.reg 0, t.reg 15)) =
      some (2, 1) := by decide

/-- 95 A-25: the flag is bit 3. -/
theorem test_A25_shl_bit3 :
    after 0x5A (State.reset.setReg 5 0x80) 0x850E (fun t => (t.reg 5, t.reg 15)) =
      some (0, 0) := by decide

/-- 95 A-26: with the parameter at 7 it is bit 7. -/
theorem test_A26_shl_bit7 :
    after 0x5A ({ (State.reset.setReg 5 0x80) with params := { Config.defaultParams with shlFlagBit := 7 } }) 0x850E (fun t => (t.reg 5, t.reg 15)) =
      some (0, 1) := by decide

/-- 95 A-30: RND masks the Step's random byte. -/
theorem test_A30_rnd :
    after 0xB7 (State.reset) 0xC30F (fun t => t.reg 3) =
      some 0x07 := by decide

/-- 95 M-1. -/
theorem test_M1_ldI :
    after 0x5A (State.reset) 0xA123 (fun t => t.i) =
      some 0x123 := by decide

/-- 95 M-4: VF says that I left memory. -/
theorem test_M4_addI_past_memory :
    after 0x5A ((State.reset.setI 0xFFF).setReg 2 1) 0xF21E (fun t => (t.i, t.reg 15)) =
      some (0x1000, 1) := by decide

/-- 95 M-5. -/
theorem test_M5_addI_overflow :
    after 0x5A ((State.reset.setI 0xFFFF).setReg 2 1) 0xF21E (fun t => (t.fault, t.i, t.reg 15, t.pc)) =
      some (some { code := .indexOverflow, pcAtFetch := 0x200, word := some 0xF21E }, 0xFFFF, 0, 0x200) := by decide

/-- 95 M-8: the high nibble is ignored. -/
theorem test_M8_ldF_low_nibble :
    after 0x5A (State.reset.setReg 7 0x3F) 0xF729 (fun t => t.i) =
      some 0x09B := by decide

/-- 95 L1.10: 234 is stored as 2, 3, 4. -/
theorem test_L1_10_ldB :
    after 0x5A ((State.reset.setReg 0 234).setI 0x300) 0xF033 (fun t => ([t.readByte 0x300, t.readByte 0x301, t.readByte 0x302], t.i)) =
      some ([2, 3, 4], 0x300) := by decide

/-- 95 M-12: no byte is written. -/
theorem test_M12_ldB_past_memory :
    after 0x5A ((State.reset.setReg 0 7).setI 0xFFE) 0xF033 (fun t => (t.fault, t.readByte 0xFFE, t.pc)) =
      some (some { code := .memOob, pcAtFetch := 0x200, word := some 0xF033 }, 0, 0x200) := by decide

/-- 95 M-16: the last byte of memory is writable. -/
theorem test_M16_store_to_the_end :
    after 0x5A (((State.reset.setReg 0 1).setReg 1 2).setI 0xFFE) 0xF155 (fun t => (t.readByte 0xFFE, t.readByte 0xFFF, t.i)) =
      some (1, 2, 0xFFE) := by decide

/-- 95 M-15: no byte is written. -/
theorem test_M15_store_past_memory :
    after 0x5A ((State.reset.setReg 0 1).setI 0xFFE) 0xF255 (fun t => (t.fault, t.readByte 0xFFE)) =
      some (some { code := .memOob, pcAtFetch := 0x200, word := some 0xF255 }, 0) := by decide

/-- 95 M-17. -/
theorem test_M17_load :
    after 0x5A ((State.reset.setI 0x400).writeBytes 0x400 [1, 2, 3]) 0xF265 (fun t => (t.reg 0, t.reg 1, t.reg 2, t.reg 3, t.i)) =
      some (1, 2, 3, 0, 0x400) := by decide

/-- 95 M-18. -/
theorem test_M18_load_up_to_VF :
    after 0x5A ((State.reset.setI 0x400).writeBytes 0x40F [0x99]) 0xFF65 (fun t => (t.reg 15, t.reg 14)) =
      some (0x99, 0) := by decide

/-- 95 K-1. -/
theorem test_K1_skp :
    after 0x5A ({ (State.reset.setReg 1 5) with key := State.reset.key.set 5 true }) 0xE19E (fun t => t.pc) =
      some 0x204 := by decide

/-- 95 K-3. -/
theorem test_K3_skp_range :
    after 0x5A (State.reset.setReg 1 16) 0xE19E (fun t => (t.fault, t.pc)) =
      some (some { code := .keyRange, pcAtFetch := 0x200, word := some 0xE19E }, 0x200) := by decide

/-- 95 K-4. -/
theorem test_K4_sknp :
    after 0x5A (State.reset.setReg 1 5) 0xE1A1 (fun t => t.pc) =
      some 0x204 := by decide

/-- 95 K-5. -/
theorem test_K5_sknp_pressed :
    after 0x5A ({ (State.reset.setReg 1 5) with key := State.reset.key.set 5 true }) 0xE1A1 (fun t => t.pc) =
      some 0x202 := by decide

/-- 95 K-7. -/
theorem test_K7_ldVxDt :
    after 0x5A ({ State.reset with dt := 0x3C }) 0xF307 (fun t => t.reg 3) =
      some 0x3C := by decide

/-- 95 K-8. -/
theorem test_K8_ldDtVx :
    after 0x5A (State.reset.setReg 3 0x3C) 0xF315 (fun t => (t.dt, t.st)) =
      some (0x3C, 0) := by decide

/-- 95 K-9. -/
theorem test_K9_ldStVx :
    after 0x5A (State.reset.setReg 3 0x10) 0xF318 (fun t => (t.st, t.dt)) =
      some (0x10, 0) := by decide

/-- 95 K-10: a release is taken and consumed. -/
theorem test_K10_ldVxK :
    after 0x5A ({ (State.reset.setPc 0x210) with justReleased := true, lastReleased := 5 }) 0xF40A (fun t => (t.reg 4, t.justReleased, t.pc)) =
      some (5, false, 0x212) := by decide

/-- 95 K-11: with no release pc stays on the instruction. -/
theorem test_K11_ldVxK_waits :
    after 0x5A (State.reset.setPc 0x210) 0xF40A (fun t => (t.reg 4, t.pc)) =
      some (0, 0x210) := by decide
/-- 95 S3: a fetch with one byte left faults with the fetch address and no word. -/
theorem test_S3_fetch_past_memory :
    (match stepDraw 0x5A (State.reset.setPc 0xFFF) with
      | .next t => some (t.fault, t.pc)
      | .fault _ => none
      | .refused _ => none) = some (some { code := .fetchOob, pcAtFetch := 0xFFF, word := none }, 0xFFF) := by decide

/-- 95 S6: from reset with nothing loaded the first Step is a decode miss. -/
theorem test_S6_reset_is_a_miss :
    (match step State.reset with
      | .next t => some (t.pc, t.fault)
      | .fault _ => none
      | .refused _ => none) = some (0x202, none) := by decide

/-- A block that has faulted. -/
def faulted : State := { State.reset with fault := some { code := .memOob, pcAtFetch := 0x200, word := some 0xF033 } }

/-- 95 S5: a Step of a faulted block is ignored. -/
theorem test_S5_faulted_step : step faulted = .next faulted := rfl

/-! ### The framebuffer's own operations (95 D-9, D-10, L1.4) -/

theorem test_D9_rows_clip :
    let g := (drawSprite clearGrid 0 31 [0x80, 0x80]).1
    (getPixel g 0 31, getPixel g 0 0) = (true, false) := by decide

theorem test_D10_start_row_past_the_screen :
    let d := drawSprite clearGrid 0 40 [0xFF]
    (getPixel d.1 0 8, d.2) = (false, false) := by decide

theorem test_L1_4_second_draw_collides :
    let d := drawSprite (drawSprite clearGrid 8 4 [0xC3]).1 8 4 [0xC3]
    (getPixel d.1 8 4, getPixel d.1 15 4, d.2) = (false, false, true) := by decide

/-! ### Memory's canonical form -/

/-- Writing the value an unlisted address reads as takes the cell off the list. -/
theorem test_memory_write_back : ((State.reset.writeBytes 0x300 [7, 8]).writeBytes 0x300 [0, 0]).mem = [] := by decide

theorem test_memory_sorted :
    ((State.reset.writeBytes 0x302 [1]).writeBytes 0x300 [2]).mem = [(0x300, 2), (0x302, 1)] := by decide

/-- 90 C1: 0x09F is the last byte of the font and 0x0A0 an ordinary byte. -/
theorem test_font_end : (State.reset.readByte 0x050, State.reset.readByte 0x09F, State.reset.readByte 0x0A0) = (0xF0, 0x80, 0) := by decide

/-! ### Host commands (95 L2.7) -/

/-- The part `f` of the state after the commands, none if one was refused. -/
def afterAll {α : Type} (cs : List Command) (s : State) (f : State → α) : Option α :=
  match applyAll cs s with
  | .next t => some (f t)
  | .fault _ => none
  | .refused _ => none

/-- The pressed state of key `k`, and the two release registers. -/
def keypad (k : Fin 16) (t : State) : Bool × Bool × Nibble := (t.key[k], t.justReleased, t.lastReleased)

/-- The block with a release scan over all 16 keys. -/
def scan16 : State := State.resetWith { Config.defaultParams with releaseScanKeys := 16 }

theorem test_H1_press : afterAll [.setPressed [5]] State.reset (keypad 5) = some (true, false, 0) := by decide

theorem test_H2_release : afterAll [.setPressed [5], .setPressed []] State.reset (keypad 5) = some (false, true, 5) := by decide

theorem test_H3_release_is_kept :
    afterAll [.setPressed [5], .setPressed [], .setPressed []] State.reset (keypad 5) = some (false, false, 5) := by decide

theorem test_H4_key15_is_not_scanned :
    afterAll [.setPressed [15], .setPressed []] State.reset (keypad 15) = some (false, false, 0) := by decide

theorem test_H5_key15_scanned :
    afterAll [.setPressed [15], .setPressed []] scan16 (keypad 15) = some (false, true, 15) := by decide

theorem test_H6_highest_release :
    afterAll [.setPressed [2, 7, 9], .setPressed [7]] State.reset (keypad 7) = some (true, true, 9) := by decide

theorem test_H7_press_is_no_release :
    afterAll [.setPressed [3], .setPressed [3, 4]] State.reset (keypad 3) = some (true, false, 0) := by decide

theorem test_H8_key_index : afterAll [.setPressed [16]] State.reset (keypad 0) = none := by decide

theorem test_H9_tick : afterAll [.tick] { State.reset with dt := 1 } (fun t => (t.dt, t.st)) = some (0, 0) := by decide

/-- 95 L1.1: three bytes loaded, the next one as before. -/
theorem test_L1_1_load :
    afterAll [.load [0x12, 0x34, 0x56]] State.reset
      (fun t => [t.readByte 0x200, t.readByte 0x201, t.readByte 0x202, t.readByte 0x203]) =
      some [0x12, 0x34, 0x56, 0] := by decide

theorem test_H12_clearDirty : afterAll [.clearDirty] { State.reset with dirty := true } (fun t => t.dirty) = some false := by
  decide

/-- 60 R251: ReadSound answers ST. -/
theorem test_readSound : observe .readSound { State.reset with st := 0x10 } = .sound 0x10 := by decide

theorem test_H13_load_after_step : afterAll [.step 0, .load []] State.reset (fun t => t.pc) = none := by decide

/-! ### The constants and the assembler notation (00_scope.md R6, 30_encoding.md R89) -/

/-- R6: the sizes that follow from one another. -/
theorem test_constants :
    Config.progCapacity = 3584 ∧ Config.fontGlyphs * Config.fontGlyphBytes = Config.fontSize ∧
      Config.fontEnd = Config.fontBase + Config.fontSize := by decide

/-- R89: ignored nibbles are assembled as 0. -/
theorem test_assemble_words :
    assemble [.instr (.cls 0), .instr (.seReg 1 2 0), .instr (.shr 3 0)] = some [0x00, 0xE0, 0x51, 0x20, 0x83, 0x06] := by
  decide

theorem test_assemble_refuses : assemble [.instr (.cls 5)] = none := by decide

/-- Log entry 29: a label defined twice, or not at all, has no target. -/
theorem test_label_twice :
    labelTarget "a" 0x200 [.label "a", .dw 0, .label "a"] = none ∧ labelTarget "b" 0x200 [.label "a"] = none := by decide

/-- Log entry 29: 0xFFF is the last address a label can stand for. -/
theorem test_label_past_memory :
    labelTarget "a" 0xFFE [.db 0, .label "a"] = some 0xFFF ∧ labelTarget "a" 0xFFE [.dw 0, .label "a"] = none := by decide

/-- Log entry 30: a label after the last item stands for the address past it. -/
theorem test_label_at_the_end : labelTarget "a" 0x200 [.dw 0, .db 0, .label "a"] = some 0x203 := by decide

/-- 95 P1, the listing with its two labels, and its Load bytes. -/
theorem test_assemble_P1 :
    assemble
      [.instr (.ldImm 0 0x00), .instr (.ldImm 1 0x01), .label "loop", .instr (.addReg 0 1), .instr (.addImm 1 0x01),
        .instr (.seImm 1 0x06), .labelled .jp "loop", .label "end", .labelled .jp "end"] =
      some [0x60, 0x00, 0x61, 0x01, 0x80, 0x14, 0x71, 0x01, 0x31, 0x06, 0x12, 0x04, 0x12, 0x0C] := by decide

theorem test_text_drw : instrText (.drw 0 1 2) = "DRW V0, V1, 0x2" := by decide

theorem test_text_ld : instrText (.ldImm 10 0xEA) = "LD VA, 0xEA" := by decide

/-! ### Witnesses: for every statement with hypotheses, a concrete state and operands that meet them all, one theorem for each
clause, at a boundary where the clause has one -/

/-- The block with the word placed at pc. -/
def holding (w : Nat) : State := State.reset.withFetchWord 16 w

/-- The block with I at `a`. -/
def indexAt (a : Word) : State := State.reset.setI a

/-- The block with `v` in V1. -/
def v1 (v : Byte) : State := State.reset.setReg 1 v

/-- The block with SP at `n`. -/
def spAt (n : Fin 33) : State := { State.reset with sp := n }

/-- The block with key 5 pressed. -/
def key5 : State := { State.reset with key := State.reset.key.set 5 true }

theorem witness_EncodeOfDecode : decodeWord 0xF265 = .ok (.ldVxMem 2) := by decide

theorem witness_DecoderFollowsTheOpcodeMap_row :
    rowOf (.cls 0) ∈ opcodeTable ∧ (rowOf (.cls 0)).selects 0x0FE0 = true := by decide

theorem witness_DecoderFollowsTheOpcodeMap_two :
    rowOf (.ldVxMem 0) ∈ opcodeTable ∧ rowOf (.ldVxMem 15) ∈ opcodeTable ∧ (rowOf (.ldVxMem 0)).selects 0xFF65 = true ∧
      (rowOf (.ldVxMem 15)).selects 0xFF65 = true := by decide

/-- A word of each of the four classes that have unmatched words, and their first and last. -/
theorem witness_UnmatchedWordsAreThoseOfTheMap :
    decodeWord 0x0000 = .error (.unmatched 0x0000) ∧ decodeWord 0x8008 = .error (.unmatched 0x8008) ∧
      decodeWord 0xE09F = .error (.unmatched 0xE09F) ∧ decodeWord 0xFFFF = .error (.unmatched 0xFFFF) := by decide

theorem witness_IgnoredNibblesAreIgnored : (spAt 1).sp.val ≠ 0 := by decide

/-- At the last fetchable address. -/
theorem witness_StepRunsTheDecodedInstruction :
    let s := (State.reset.setPc 0xFFE).withFetchWord 16 0x6123
    s.fault = none ∧ s.pc.toNat + 1 < 4096 ∧
      decodeWord (wordOfBytes (s.readByte s.pc.toNat) (s.readByte (s.pc.toNat + 1))) = .ok (.ldImm 1 0x23) ∧
      (Instr.ldImm 1 0x23).wellFormed = true := by decide

theorem witness_DecodeMissOnlyAdvancesPc :
    let s := (State.reset.setPc 0xFFE).withFetchWord 16 0xF0FF
    s.fault = none ∧ s.pc.toNat + 1 < 4096 ∧
      ∀ r ∈ opcodeTable, r.selects (wordOfBytes (s.readByte s.pc.toNat) (s.readByte (s.pc.toNat + 1))) = false := by decide

theorem witness_FetchReadsBigEndianOrFaults_reads : (State.reset.setPc 0xFFE).pc.toNat + 1 < 4096 := by decide

theorem witness_FetchReadsBigEndianOrFaults_faults :
    (State.reset.setPc 0xFFF).fault = none ∧ 4096 ≤ (State.reset.setPc 0xFFF).pc.toNat + 1 := by decide

theorem witness_FaultRecordedExactlyWhenTheTableSays : (holding 0x00EE).fault = none := by decide

/-- A return with an empty stack faults. -/
theorem witness_FaultEntryDiscardsTheStepAndFreezes_entry :
    ∃ t, (holding 0x00EE).fault = none ∧ stepDraw 0x5A (holding 0x00EE) = .next t ∧ t.fault ≠ none :=
  ⟨{ (holding 0x00EE).beginStep 0x5A with
      fault := some { code := .stackUnderflow, pcAtFetch := 0x200, word := some 0x00EE } }, by decide, rfl, by decide⟩

theorem witness_FaultEntryDiscardsTheStepAndFreezes_frozen : faulted.fault ≠ none := by decide

/-- A command that is not Reset. -/
theorem witness_FaultEntryDiscardsTheStepAndFreezes_command : ∀ p, Command.tick ≠ .reset p := by
  intro p h
  cases h

/-- V0 alone stored by FX55 with X = 0 at the last address, and a fetch whose lower half it is. -/
theorem witness_StoresAreSeenByTheNextFetch_block :
    ∃ t u, exec (.ldMemVx 0) (indexAt 0xFFF) = .next t ∧ (indexAt 0xFFF).i.toNat + (0 : Nibble).toNat < 4096 ∧
      0 ≤ (0 : Nibble).toNat ∧ SameMemory t u ∧ u.pc.toNat + 1 < 4096 ∧ u.pc.toNat + 1 = (indexAt 0xFFF).i.toNat + 0 :=
  ⟨(indexAt 0xFFF).writeBytes 0xFFF (State.reset.regsUpTo 0),
    ((indexAt 0xFFF).writeBytes 0xFFF (State.reset.regsUpTo 0)).setPc 0xFFE, rfl, by decide, by decide, fun _ => rfl,
    by decide, by decide⟩

/-- The ones digit stored by FX33 at the last address, and a fetch whose lower half it is. -/
theorem witness_StoresAreSeenByTheNextFetch_digits :
    ∃ t u, exec (.ldBVx 1) (indexAt 0xFFD) = .next t ∧ (indexAt 0xFFD).i.toNat + 2 < 4096 ∧ SameMemory t u ∧
      u.pc.toNat + 1 < 4096 ∧ u.pc.toNat + 1 = (indexAt 0xFFD).i.toNat + 2 :=
  ⟨(indexAt 0xFFD).writeBytes 0xFFD (decimalDigits 0), ((indexAt 0xFFD).writeBytes 0xFFD (decimalDigits 0)).setPc 0xFFE,
    rfl, by decide, fun _ => rfl, by decide, by decide⟩

/-- The last two bytes of memory stored by FX55 with X = 1, pc on them. -/
theorem witness_StoresAreSeenByTheNextFetch_blockWord :
    ∃ t, exec (.ldMemVx 1) ((indexAt 0xFFE).setPc 0xFFE) = .next t ∧
      ((indexAt 0xFFE).setPc 0xFFE).i.toNat + (1 : Nibble).toNat < 4096 ∧ 0 + 1 ≤ (1 : Nibble).toNat ∧
      t.pc.toNat = ((indexAt 0xFFE).setPc 0xFFE).i.toNat + 0 :=
  ⟨((indexAt 0xFFE).setPc 0xFFE).writeBytes 0xFFE (State.reset.regsUpTo 1), rfl, by decide, by decide, by decide⟩

theorem witness_StoresAreSeenByTheNextFetch_digitsWord :
    ∃ t, exec (.ldBVx 1) ((indexAt 0xFFD).setPc 0xFFD) = .next t ∧ ((indexAt 0xFFD).setPc 0xFFD).i.toNat + 2 < 4096 ∧
      t.pc = ((indexAt 0xFFD).setPc 0xFFD).i :=
  ⟨((indexAt 0xFFD).setPc 0xFFD).writeBytes 0xFFD (decimalDigits 0), rfl, by decide, by decide⟩

theorem witness_StoresAreSeenByTheNextFetch_digitsNextWord :
    ∃ t, exec (.ldBVx 1) ((indexAt 0xFFD).setPc 0xFFE) = .next t ∧ ((indexAt 0xFFD).setPc 0xFFE).i.toNat + 2 < 4096 ∧
      t.pc = ((indexAt 0xFFD).setPc 0xFFE).i + 1 :=
  ⟨((indexAt 0xFFD).setPc 0xFFE).writeBytes 0xFFD (decimalDigits 0), rfl, by decide, by decide⟩

/-- One byte at the last address, and no byte anywhere. -/
theorem witness_DrawInstructionDrawsAndReportsCollision_draws :
    ¬ (0 < (1 : Nibble).toNat ∧ 4096 ≤ (indexAt 0xFFF).i.toNat + (1 : Nibble).toNat - 1) ∧
      ¬ (0 < (0 : Nibble).toNat ∧ 4096 ≤ (indexAt 0xFFF0).i.toNat + (0 : Nibble).toNat - 1) := by decide

theorem witness_DrawInstructionDrawsAndReportsCollision_faults :
    0 < (2 : Nibble).toNat ∧ 4096 ≤ (indexAt 0xFFF).i.toNat + (2 : Nibble).toNat - 1 := by decide

/-- The sprite byte 0xC0 at column 63 and row 31 covers the pixel that wraps to column 0. -/
theorem witness_SpriteDrawTogglesCoveredPixels_covered : 0 < 64 ∧ 31 < 32 ∧ SpriteCovers 63 31 [0xC0, 0xFF] 0 31 :=
  ⟨by decide, by decide, 0, 1, 0xC0, rfl, rfl, by decide, rfl, by decide⟩

/-- It covers nothing in row 0. -/
theorem witness_SpriteDrawTogglesCoveredPixels_uncovered : 0 < 64 ∧ 0 < 32 ∧ ¬ SpriteCovers 63 31 [0xC0, 0xFF] 0 0 := by
  refine ⟨by decide, by decide, ?_⟩
  rintro ⟨k, j, b, _, h, _⟩
  omega

theorem witness_DrawingTwiceRestoresTheGrid : ∃ c r, c < 64 ∧ r < 32 ∧ SpriteCovers 63 31 [0xC0, 0xFF] c r :=
  ⟨0, 31, witness_SpriteDrawTogglesCoveredPixels_covered⟩

theorem witness_BlankSpriteDrawsNothing : (∀ b ∈ ([] : List Byte), b = 0) ∧ ∀ b ∈ ([0, 0] : List Byte), b = 0 := by decide

theorem witness_ReturnPopsTheReturnAddress_pops : 31 < 32 ∧ (spAt 32).sp.val = 31 + 1 := by decide

theorem witness_ReturnPopsTheReturnAddress_faults : (spAt 0).sp.val = 0 := by decide

theorem witness_CallPushesTheReturnAddress_pushes : (spAt 31).sp.val < 32 ∧ 30 < 32 ∧ 30 ≠ (spAt 31).sp.val := by decide

theorem witness_CallPushesTheReturnAddress_faults : (spAt 32).sp.val = 32 := by decide

theorem witness_ReturnAfterCallResumes :
    ∃ t u : State, (spAt 31).sp.val < 32 ∧ exec (.call 0x400) (spAt 31) = .next t ∧ u.stack = t.stack ∧ u.sp = t.sp :=
  ⟨{ spAt 31 with stack := State.reset.stack.set 31 0x200, sp := 32, pc := 0x400 },
    { State.reset with stack := State.reset.stack.set 31 0x200, sp := 32 }, by decide, rfl, rfl, rfl⟩

theorem witness_AddIndexFlagsBeyondMemory_adds : ((v1 1).setI 0xFFFE).i.toNat + ((v1 1).reg 1).toNat ≤ 0xFFFF := by decide

theorem witness_AddIndexFlagsBeyondMemory_faults : 0xFFFF < ((v1 1).setI 0xFFFF).i.toNat + ((v1 1).reg 1).toNat := by decide

theorem witness_DecimalDigitsAreStored_stores : (indexAt 0xFFD).i.toNat + 2 < 4096 := by decide

theorem witness_DecimalDigitsAreStored_faults : 4096 ≤ (indexAt 0xFFE).i.toNat + 2 := by decide

theorem witness_RegistersAreStored_stores : (indexAt 0xFF0).i.toNat + (15 : Nibble).toNat < 4096 := by decide

theorem witness_RegistersAreStored_faults : 4096 ≤ (indexAt 0xFF1).i.toNat + (15 : Nibble).toNat := by decide

theorem witness_RegistersAreLoaded_loads : (indexAt 0xFFF).i.toNat + (0 : Nibble).toNat < 4096 := by decide

theorem witness_RegistersAreLoaded_faults : 4096 ≤ (indexAt 0x1000).i.toNat + (0 : Nibble).toNat := by decide

theorem witness_KeyTestsSkip_reads : ((v1 15).reg 1).toNat < 16 := by decide

theorem witness_KeyTestsSkip_faults : 15 < ((v1 16).reg 1).toNat := by decide

theorem witness_KeyWaitTakesAReleaseOrRewinds_takes : { State.reset with justReleased := true }.justReleased = true := by decide

theorem witness_KeyWaitTakesAReleaseOrRewinds_waits : State.reset.justReleased = false := by decide

/-- An instruction that writes no register, and one that writes a register other than VF. -/
theorem witness_OnlyFlagWritersChangeVf_jump :
    exec (.jp 0x300) State.reset = .next (State.reset.setPc 0x300) ∧
      (rowOf (.jp 0x300)).mnemonic ∉ ["ADD_REG", "SUB", "SUBN", "SHR", "SHL", "DRW", "ADD_I_VX"] ∧
      (rowOf (.jp 0x300)).mnemonic ∉
        ["LD_IMM", "ADD_IMM", "LD_REG", "OR", "AND", "XOR", "RND", "LD_VX_DT", "LD_VX_K", "LD_VX_MEM"] :=
  ⟨rfl, by decide, by decide⟩

theorem witness_OnlyFlagWritersChangeVf_load :
    exec (.ldImm 14 0x2F) State.reset = .next (State.reset.setReg 14 0x2F) ∧
      (rowOf (.ldImm 14 0x2F)).mnemonic ∉ ["ADD_REG", "SUB", "SUBN", "SHR", "SHL", "DRW", "ADD_I_VX"] ∧
      fieldX (encode (.ldImm 14 0x2F)) ≠ 15 :=
  ⟨rfl, by decide, by decide⟩

/-- One instruction that meets every clause's side condition. -/
theorem witness_EachPartHasItsOnlyWriters :
    exec (.ldImm 1 0x23) State.reset = .next (State.reset.setReg 1 0x23) ∧
      (rowOf (.ldImm 1 0x23)).mnemonic ∉
        ["LD_B_VX", "LD_MEM_VX", "LD_I", "ADD_I_VX", "LD_F_VX", "CALL", "RET", "LD_DT_VX", "LD_ST_VX", "CLS", "DRW",
          "LD_VX_K"] :=
  ⟨rfl, by decide⟩

theorem witness_FrameOfRegisterInstructions_plain : exec (.ldImm 15 0x23) State.reset = .next (State.reset.setReg 15 0x23) := rfl

theorem witness_FrameOfRegisterInstructions_flags : ∃ t, exec (.shl 5 1) (v1 1) = .next t := ⟨_, rfl⟩

theorem witness_FrameOfControlFlow_jump : ∃ t, exec (.jp 0x300) State.reset = .next t := ⟨_, rfl⟩

theorem witness_FrameOfControlFlow_key : ((v1 15).reg 1).toNat ≤ 15 ∧ ∃ t, exec (.skp 1) (v1 15) = .next t :=
  ⟨by decide, _, rfl⟩

theorem witness_FrameOfControlFlow_ret : (spAt 32).sp.val ≠ 0 ∧ ∃ t, exec (.ret 0) (spAt 32) = .next t := ⟨by decide, _, rfl⟩

theorem witness_FrameOfControlFlow_call : (spAt 31).sp.val ≠ 32 ∧ ∃ t, exec (.call 0x400) (spAt 31) = .next t :=
  ⟨by decide, _, rfl⟩

theorem witness_FrameOfDisplayInstructions_clear : ∃ t, exec (.cls 0) State.reset = .next t := ⟨_, rfl⟩

theorem witness_FrameOfDisplayInstructions_draw :
    (indexAt 0xFFF).i.toNat + (1 : Nibble).toNat ≤ 4096 ∧ ∃ t, exec (.drw 0 0 1) (indexAt 0xFFF) = .next t :=
  ⟨by decide, _, rfl⟩

theorem witness_FrameOfStoresAndLoads_digits :
    (indexAt 0xFFD).i.toNat + 2 < 4096 ∧ ∃ t, exec (.ldBVx 1) (indexAt 0xFFD) = .next t := ⟨by decide, _, rfl⟩

theorem witness_FrameOfStoresAndLoads_store :
    (indexAt 0xFF0).i.toNat + (15 : Nibble).toNat < 4096 ∧ ∃ t, exec (.ldMemVx 15) (indexAt 0xFF0) = .next t :=
  ⟨by decide, _, rfl⟩

theorem witness_FrameOfStoresAndLoads_load :
    (indexAt 0xFF0).i.toNat + (15 : Nibble).toNat < 4096 ∧ ∃ t, exec (.ldVxMem 15) (indexAt 0xFF0) = .next t :=
  ⟨by decide, _, rfl⟩

theorem witness_FrameOfIndexTimerAndKeyInstructions_index : ∃ t, exec (.ldFVx 1) (v1 7) = .next t := ⟨_, rfl⟩

theorem witness_FrameOfIndexTimerAndKeyInstructions_add :
    ((v1 1).setI 0xFFFE).i.toNat + (((v1 1).setI 0xFFFE).reg 1).toNat ≤ 0xFFFF ∧
      ∃ t, exec (.addIVx 1) ((v1 1).setI 0xFFFE) = .next t :=
  ⟨by decide, _, rfl⟩

theorem witness_FrameOfIndexTimerAndKeyInstructions_delay : ∃ t, exec (.ldDtVx 1) (v1 7) = .next t := ⟨_, rfl⟩

theorem witness_FrameOfIndexTimerAndKeyInstructions_sound : ∃ t, exec (.ldStVx 1) (v1 7) = .next t := ⟨_, rfl⟩

theorem witness_FrameOfIndexTimerAndKeyInstructions_wait :
    State.reset.justReleased = false ∧ ∃ t, exec (.ldVxK 1) State.reset = .next t := ⟨by decide, _, rfl⟩

/-- The invariant holds of a block at the last address pc can take, not only at reset. -/
theorem inv_at_the_last_pc : Inv (State.reset.setPc 0x10FE) where
  memory := ⟨List.Pairwise.nil, fun _ h => nomatch h⟩
  pc := by decide
  stack := by decide
  lastReleased := by decide
  faultAtPc := fun _ h => nomatch h
  faultWord := fun _ h => nomatch h

theorem inv_reset : Inv State.reset where
  memory := ⟨List.Pairwise.nil, fun _ h => nomatch h⟩
  pc := by decide
  stack := by decide
  lastReleased := by decide
  faultAtPc := fun _ h => nomatch h
  faultWord := fun _ h => nomatch h

theorem witness_StepKeepsTheInvariant : ∃ t, Inv (State.reset.setPc 0x10FE) ∧ step (State.reset.setPc 0x10FE) = .next t :=
  ⟨_, inv_at_the_last_pc, rfl⟩

theorem witness_CommandsKeepTheInvariant : ∃ t, Inv State.reset ∧ apply (.setPressed [5, 15]) State.reset = .next t :=
  ⟨_, inv_reset, rfl⟩

theorem witness_PcNeverWraps_past : Inv (State.reset.setPc 0x10FE) ∧ 0x0FFF ≤ (State.reset.setPc 0x10FE).pc.toNat :=
  ⟨inv_at_the_last_pc, by decide⟩

theorem witness_PcNeverWraps_fetches : Inv State.reset ∧ State.reset.fetch ≠ none := ⟨inv_reset, by decide⟩

theorem witness_OnlyRandomReadsTheDraw_others : (holding 0xB123).fault = none ∧ fieldClass (holding 0xB123).wordAtPc ≠ 0xC := by
  decide

theorem witness_OnlyRandomReadsTheDraw_random :
    (holding 0xC30F).fault = none ∧ (holding 0xC30F).pc.toNat + 1 < 4096 ∧ fieldClass (holding 0xC30F).wordAtPc = 0xC := by
  decide

theorem witness_SoundAndDirtyAreNotObserved : ∃ t, step (holding 0xF118) = .next t := ⟨_, rfl⟩

theorem witness_LoadCopiesTheImage : State.reset.fault = none ∧ State.reset.loaded = false ∧ State.reset.steps = 0 := by decide

theorem witness_RefusedHostCommands_afterLoad :
    { State.reset with loaded := true }.fault = none ∧
      ({ State.reset with loaded := true }.loaded = true ∨ { State.reset with loaded := true }.steps ≠ 0) := by decide

theorem witness_RefusedHostCommands_afterStep :
    { State.reset with steps := 1 }.fault = none ∧
      ({ State.reset with steps := 1 }.loaded = true ∨ { State.reset with steps := 1 }.steps ≠ 0) := by decide

theorem witness_RefusedHostCommands_step : ∃ t, State.reset.fault = none ∧ apply (.step 0x5A) State.reset = .next t :=
  ⟨_, by decide, rfl⟩

theorem witness_RefusedHostCommands_load : ∃ t, State.reset.fault = none ∧ apply (.load [0x12]) State.reset = .next t :=
  ⟨_, by decide, rfl⟩

theorem witness_RefusedHostCommands_between :
    (∀ p, Command.tick ≠ .reset p) ∧ ∃ t, apply .tick { State.reset with loaded := true } = .next t ∧
      { State.reset with loaded := true }.loaded = true :=
  ⟨witness_FaultEntryDiscardsTheStepAndFreezes_command, _, rfl, by decide⟩

theorem witness_RefusedHostCommands_key : State.reset.fault = none ∧ ∃ k ∈ [3, 16], 16 ≤ k := by decide

theorem witness_SetPressedFindsTheLastRelease : key5.fault = none ∧ ∀ k ∈ [0, 15], k < 16 := by decide

/-- Key 5 is the one release, and a scan finds it. -/
theorem witness_SetPressedFindsTheLastRelease_release :
    5 < key5.params.releaseScanKeys.val ∧ key5.key[5] = true ∧ 5 ∉ [0, 15] ∧
      ∀ j : Fin 16, 5 < j.val → j.val < key5.params.releaseScanKeys.val → ¬ (key5.key[j] = true ∧ j.val ∉ [0, 15]) := by
  decide

/-- A key that is held, not released: the flag is false. -/
theorem witness_SetPressedFindsTheLastRelease_none : (key5.setPressed [5]).justReleased = false := by decide

theorem witness_TickCountsDownClamped : { State.reset with dt := 1, st := 0 }.fault = none := by decide

theorem witness_DisplayReadAndDirtyClear : { State.reset with dirty := true }.fault = none ∧ 63 < 64 ∧ 31 < 32 := by decide

/-- A host that loads and then makes two cycles with a tick and a read. -/
theorem witness_ProtocolKeepingHostIsNeverRefused :
    hostProtocol [.load [0x12, 0x00], .setPressed [15], .step 1, .tick, .setPressed [], .readDisplay, .step 2] = true ∧
      keysInRange [.load [0x12, 0x00], .setPressed [15], .step 1, .tick, .setPressed [], .readDisplay, .step 2] := by
  refine ⟨by decide, ?_⟩
  intro ks h k hk
  simp only [List.mem_cons, List.not_mem_nil, reduceCtorEq, Command.setPressed.injEq, or_false, false_or] at h
  rcases h with rfl | rfl
  · have : k = 15 := by simpa using hk
    omega
  · simp at hk

end Sys2Proof.Tests
end

section
/-! SUPPORT. Blank sprites (41_display.md R127): a byte of no set bits leaves the grid and the collision as they were, bit by
bit, then row by row, then for the whole sprite. -/

namespace Sys2Proof.Machine

/-- R125: only a set sprite bit toggles a pixel or collides. -/
@[simp] theorem blitBit_zero (x row : Nat) (acc : Grid × Bool) (c : Nat) : blitBit x row 0 acc c = acc := by
  simp [blitBit]

@[simp] theorem blitRow_zero (x row : Nat) (acc : Grid × Bool) : blitRow x row 0 acc = acc :=
  List.foldl_fixed' (blitBit_zero x row acc) (List.range 8)

/-- The induction of R127, over every start row and every accumulated draw: rows past the bottom edge (R126) and blank rows
alike hand the accumulator on. -/
theorem blitRows_of_forall_eq_zero (x row : Nat) (bytes : List Byte) (acc : Grid × Bool) (blank : ∀ b ∈ bytes, b = 0) :
    blitRows x row bytes acc = acc := by
  induction bytes generalizing row with
  | nil => rfl
  | cons b rest ih =>
    obtain ⟨rfl, blankRest⟩ := List.forall_mem_cons.mp blank
    have restUnchanged : blitRows x (row + 1) rest acc = acc := ih (row + 1) blankRest
    rw [blitRows, blitRow_zero, restUnchanged, ite_self]

/-- Settles O18: a draw starts from the given grid with no collision, and a blank sprite's rows change neither. -/
theorem blankSpriteDrawsNothing : Obligations.BlankSpriteDrawsNothing := by
  intro g x y bytes blank
  exact blitRows_of_forall_eq_zero x y bytes (g, false) blank

end Sys2Proof.Machine
end

section
/-! SUPPORT. The instructions that write one register and no flag (43_register_alu.md R160 to R165): what each writes, and what
one register write leaves unchanged. -/

namespace Sys2Proof.Machine

/-- The mask and match test of an instruction's row, as an equation on its word (R84). -/
theorem encode_and_mask {i : Instr} (inRow : Laws.EncodingInRow.Statement i) :
    encode i &&& (rowOf i).mask = (rowOf i).pattern := eq_of_beq inRow

/-! ### The register write -/

theorem State.reg_setReg_self (s : State) (x : Nibble) (v : Byte) : (s.setReg x v).reg x = v := by simp

theorem State.sameRegsBut_setReg (s : State) (x : Nibble) (v : Byte) : SameRegsBut (· = x) s (s.setReg x v) := by
  intro r ne
  rw [State.reg_setReg, if_neg ne]

/-! ### What each instruction writes -/

theorem exec_ldImm (x : Nibble) (nn : Byte) (s : State) : exec (.ldImm x nn) s = .next (s.setReg x nn) := rfl

theorem exec_addImm (x : Nibble) (nn : Byte) (s : State) :
    exec (.addImm x nn) s = .next (s.setReg x (wrap8 ((s.reg x).toNat + nn.toNat))) := rfl

theorem exec_ldReg (x y : Nibble) (s : State) : exec (.ldReg x y) s = .next (s.setReg x (s.reg y)) := rfl

theorem exec_or (x y : Nibble) (s : State) : exec (.or x y) s = .next (s.setReg x (s.reg x ||| s.reg y)) := rfl

theorem exec_and (x y : Nibble) (s : State) : exec (.and x y) s = .next (s.setReg x (s.reg x &&& s.reg y)) := rfl

theorem exec_xor (x y : Nibble) (s : State) : exec (.xor x y) s = .next (s.setReg x (s.reg x ^^^ s.reg y)) := rfl

/-! ### The obligations -/

/-- Settles O24: both instructions are one register write, of the immediate or of the wrapped sum. -/
theorem immediateLoadAndAdd : Obligations.ImmediateLoadAndAdd := by
  intro x nn s
  refine ⟨encode_and_mask (Laws.EncodingInRow.ldImm x nn), encode_and_mask (Laws.EncodingInRow.addImm x nn),
    ⟨_, exec_ldImm x nn s, fun r => s.reg_setReg x r nn, s.setReg_eq x nn⟩,
    ⟨_, exec_addImm x nn s, fun r => ?sum, s.setReg_eq x _⟩⟩
  case sum => rw [State.reg_setReg, apply_ite BitVec.toNat, toNat_wrap8]

/-- Settles O25: each of the four is one register write, and the value's bits are the operation on the operands' bits. -/
theorem copyAndBitwiseOperations : Obligations.CopyAndBitwiseOperations := by
  intro x y s
  refine ⟨encode_and_mask (Laws.EncodingInRow.ldReg x y), encode_and_mask (Laws.EncodingInRow.or x y),
    encode_and_mask (Laws.EncodingInRow.and x y), encode_and_mask (Laws.EncodingInRow.xor x y),
    ⟨_, exec_ldReg x y s, s.reg_setReg_self x _, s.sameRegsBut_setReg x _, s.setReg_eq x _⟩,
    ⟨_, exec_or x y s, fun k _ => ?orBit, s.sameRegsBut_setReg x _, s.setReg_eq x _⟩,
    ⟨_, exec_and x y s, fun k _ => ?andBit, s.sameRegsBut_setReg x _, s.setReg_eq x _⟩,
    ⟨_, exec_xor x y s, fun k _ => ?xorBit, s.sameRegsBut_setReg x _, s.setReg_eq x _⟩⟩
  case orBit => rw [State.reg_setReg_self, BitVec.getLsbD_or]
  case andBit => rw [State.reg_setReg_self, BitVec.getLsbD_and]
  case xorBit => rw [State.reg_setReg_self, BitVec.getLsbD_xor]

end Sys2Proof.Machine
end

section
/-! SUPPORT. The instructions that load the index register (44_index_memory.md R190, R192): what each writes to I, and that
writing I changes no other field. -/

namespace Sys2Proof.Machine

/-- Writing I changes no field but I. -/
theorem State.setI_eq (s : State) (v : Word) : s.setI v = { s with i := (s.setI v).i } := rfl

/-! ### What each instruction writes -/

theorem exec_ldI (nnn : Addr) (s : State) : exec (.ldI nnn) s = .next (s.setI (zextAddr nnn)) := rfl

theorem exec_ldFVx (x : Nibble) (s : State) : exec (.ldFVx x) s = .next (s.setI (fontGlyphAddr (s.reg x))) := rfl

/-! ### The obligation -/

/-- Settles O32: both instructions are one write of I, of the zero-extended address or of the glyph's address. -/
theorem indexLoads : Obligations.IndexLoads := by
  intro nnn x s
  refine ⟨encode_and_mask (Laws.EncodingInRow.ldI nnn), encode_and_mask (Laws.EncodingInRow.ldFVx x),
    ⟨_, exec_ldI nnn s, ?address, s.setI_eq _⟩, ⟨_, exec_ldFVx x s, ?glyph, s.setI_eq _⟩⟩
  case address => rw [State.setI_i, toNat_zextAddr]
  case glyph => rw [State.setI_i, toNat_fontGlyphAddr]

end Sys2Proof.Machine
end

section
/-! SUPPORT. The timer transfers (45_keypad_timers.md R212 to R214): what each writes. -/

namespace Sys2Proof.Machine

/-! ### What each instruction writes -/

theorem exec_ldVxDt (x : Nibble) (s : State) : exec (.ldVxDt x) s = .next (s.setReg x s.dt) := rfl

theorem exec_ldDtVx (x : Nibble) (s : State) : exec (.ldDtVx x) s = .next { s with dt := s.reg x } := rfl

theorem exec_ldStVx (x : Nibble) (s : State) : exec (.ldStVx x) s = .next { s with st := s.reg x } := rfl

/-! ### The obligation -/

/-- Settles O38: the read of the delay timer is one register write, and each load of a timer is one write of that timer's
field, so both facts about its next state hold by definition. -/
theorem timerTransfers : Obligations.TimerTransfers := by
  intro x s
  exact ⟨encode_and_mask (Laws.EncodingInRow.ldVxDt x), encode_and_mask (Laws.EncodingInRow.ldDtVx x),
    encode_and_mask (Laws.EncodingInRow.ldStVx x),
    ⟨_, exec_ldVxDt x s, fun r => s.reg_setReg x r s.dt, s.setReg_eq x s.dt⟩,
    ⟨_, exec_ldDtVx x s, rfl, rfl⟩,
    ⟨_, exec_ldStVx x s, rfl, rfl⟩⟩

end Sys2Proof.Machine
end

section
/-! SUPPORT. Encoding and decoding (30_encoding.md R81 to R87): the fields of a word built from fields, and a word rebuilt
from its own fields; the decoder and the encoder are then inverse, row by row. -/

namespace Sys2Proof

/-! ### The fields of a word built from fields -/

@[simp] theorem fieldClass_wordXYN (c x y n : Nibble) : fieldClass (wordXYN c x y n) = c := by
  apply BitVec.eq_of_toNat_eq
  rw [toNat_fieldClass, toNat_wordXYN]
  omega

@[simp] theorem fieldX_wordXYN (c x y n : Nibble) : fieldX (wordXYN c x y n) = x := by
  apply BitVec.eq_of_toNat_eq
  rw [toNat_fieldX, toNat_wordXYN]
  omega

@[simp] theorem fieldY_wordXYN (c x y n : Nibble) : fieldY (wordXYN c x y n) = y := by
  apply BitVec.eq_of_toNat_eq
  rw [toNat_fieldY, toNat_wordXYN]
  omega

@[simp] theorem fieldN_wordXYN (c x y n : Nibble) : fieldN (wordXYN c x y n) = n := by
  apply BitVec.eq_of_toNat_eq
  rw [toNat_fieldN, toNat_wordXYN]
  omega

@[simp] theorem fieldClass_wordXNN (c x : Nibble) (nn : Byte) : fieldClass (wordXNN c x nn) = c := by
  apply BitVec.eq_of_toNat_eq
  rw [toNat_fieldClass, toNat_wordXNN]
  omega

@[simp] theorem fieldX_wordXNN (c x : Nibble) (nn : Byte) : fieldX (wordXNN c x nn) = x := by
  apply BitVec.eq_of_toNat_eq
  rw [toNat_fieldX, toNat_wordXNN]
  omega

@[simp] theorem fieldNN_wordXNN (c x : Nibble) (nn : Byte) : fieldNN (wordXNN c x nn) = nn := by
  apply BitVec.eq_of_toNat_eq
  rw [toNat_fieldNN, toNat_wordXNN]
  omega

@[simp] theorem fieldClass_wordNNN (c : Nibble) (nnn : Addr) : fieldClass (wordNNN c nnn) = c := by
  apply BitVec.eq_of_toNat_eq
  rw [toNat_fieldClass, toNat_wordNNN]
  omega

@[simp] theorem fieldNNN_wordNNN (c : Nibble) (nnn : Addr) : fieldNNN (wordNNN c nnn) = nnn := by
  apply BitVec.eq_of_toNat_eq
  rw [toNat_fieldNNN, toNat_wordNNN]
  omega

/-! ### A word rebuilt from its fields -/

theorem wordXYN_fields (w : Word) : wordXYN (fieldClass w) (fieldX w) (fieldY w) (fieldN w) = w := by
  apply BitVec.eq_of_toNat_eq
  rw [toNat_wordXYN, toNat_fieldClass, toNat_fieldX, toNat_fieldY, toNat_fieldN]
  omega

theorem wordXNN_fields (w : Word) : wordXNN (fieldClass w) (fieldX w) (fieldNN w) = w := by
  apply BitVec.eq_of_toNat_eq
  rw [toNat_wordXNN, toNat_fieldClass, toNat_fieldX, toNat_fieldNN]
  omega

theorem wordNNN_fields (w : Word) : wordNNN (fieldClass w) (fieldNNN w) = w := by
  apply BitVec.eq_of_toNat_eq
  rw [toNat_wordNNN, toNat_fieldClass, toNat_fieldNNN]
  omega

/-- NN is Y and N together (R82). -/
theorem toNat_fieldNN_eq (w : Word) : (fieldNN w).toNat = (fieldY w).toNat * 16 + (fieldN w).toNat := by
  rw [toNat_fieldNN, toNat_fieldY, toNat_fieldN]
  omega

theorem wordOfBytes_bytesOfWord (w : Word) :
    wordOfBytes (BitVec.ofNat 8 (w.toNat / 256)) (BitVec.ofNat 8 w.toNat) = w := by
  apply BitVec.eq_of_toNat_eq
  rw [toNat_wordOfBytes, BitVec.toNat_ofNat, BitVec.toNat_ofNat]
  omega

/-! ### Decode and encode -/

/-- Each pattern's class and tested nibbles pick its own arm of the decoder, and the operands are the word's fields. -/
theorem decodeWord_encode (i : Instr) : decodeWord (encode i) = .ok i := by
  cases i <;> simp [encode, decodeWord, decodeClass0, decodeClass8, decodeClassE, decodeClassF]

/-- A word whose class is known by its value is rebuilt from that class and its other fields. -/
theorem wordXYN_of_class {w : Word} {c : Nibble} (h : (fieldClass w).toNat = c.toNat) :
    wordXYN c (fieldX w) (fieldY w) (fieldN w) = w := by
  rw [← BitVec.eq_of_toNat_eq h, wordXYN_fields]

theorem wordXNN_of_class {w : Word} {c : Nibble} (h : (fieldClass w).toNat = c.toNat) :
    wordXNN c (fieldX w) (fieldNN w) = w := by
  rw [← BitVec.eq_of_toNat_eq h, wordXNN_fields]

theorem wordNNN_of_class {w : Word} {c : Nibble} (h : (fieldClass w).toNat = c.toNat) :
    wordNNN c (fieldNNN w) = w := by
  rw [← BitVec.eq_of_toNat_eq h, wordNNN_fields]

theorem wordXYN_of_class_N {w : Word} {c n : Nibble} (h : (fieldClass w).toNat = c.toNat)
    (hn : (fieldN w).toNat = n.toNat) : wordXYN c (fieldX w) (fieldY w) n = w := by
  rw [← BitVec.eq_of_toNat_eq hn, wordXYN_of_class h]

theorem wordXNN_of_class_NN {w : Word} {c : Nibble} {nn : Byte} (h : (fieldClass w).toNat = c.toNat)
    (hn : (fieldNN w).toNat = nn.toNat) : wordXNN c (fieldX w) nn = w := by
  rw [← BitVec.eq_of_toNat_eq hn, wordXNN_of_class h]

theorem encode_of_decodeClass0 {w : Word} {i : Instr} (hc : (fieldClass w).toNat = 0x0)
    (h : decodeClass0 w = .ok i) : encode i = w := by
  unfold decodeClass0 at h
  split at h <;> cases h <;> exact wordXNN_of_class_NN hc ‹_›

theorem encode_of_decodeClass8 {w : Word} {i : Instr} (hc : (fieldClass w).toNat = 0x8)
    (h : decodeClass8 w = .ok i) : encode i = w := by
  unfold decodeClass8 at h
  split at h <;> cases h <;> exact wordXYN_of_class_N hc ‹_›

theorem encode_of_decodeClassE {w : Word} {i : Instr} (hc : (fieldClass w).toNat = 0xE)
    (h : decodeClassE w = .ok i) : encode i = w := by
  unfold decodeClassE at h
  split at h <;> cases h <;> exact wordXNN_of_class_NN hc ‹_›

theorem encode_of_decodeClassF {w : Word} {i : Instr} (hc : (fieldClass w).toNat = 0xF)
    (h : decodeClassF w = .ok i) : encode i = w := by
  unfold decodeClassF at h
  split at h <;> cases h <;> exact wordXNN_of_class_NN hc ‹_›

theorem encode_of_decodeWord {w : Word} {i : Instr} (h : decodeWord w = .ok i) : encode i = w := by
  unfold decodeWord at h
  split at h
  case h_1 hc => exact encode_of_decodeClass0 hc h
  case h_9 hc => exact encode_of_decodeClass8 hc h
  case h_15 hc => exact encode_of_decodeClassE hc h
  case h_16 =>
    have hc : (fieldClass w).toNat = 0xF := by
      have := (fieldClass w).isLt
      simp only [imp_false] at *
      omega
    exact encode_of_decodeClassF hc h
  all_goals cases h
  case h_2 hc | h_3 hc | h_11 hc | h_12 hc => exact wordNNN_of_class hc
  case h_6 hc | h_10 hc | h_14 hc => exact wordXYN_of_class hc
  all_goals exact wordXNN_of_class ‹_›

/-! ### The rows of the opcode map -/

open Laws.EncodingInRow in
/-- Every instruction's word is of its own row (R84). -/
theorem encode_inRow (i : Instr) : Laws.EncodingInRow.Statement i :=
  i.rec (motive := Laws.EncodingInRow.Statement) cls ret jp call seImm sneImm seReg ldImm addImm ldReg or and xor addReg sub
    shr subn shl sneReg ldI jpV0 rnd drw skp sknp ldVxDt ldDtVx ldStVx addIVx ldVxK ldFVx ldBVx ldMemVx ldVxMem

theorem rowOf_mem_opcodeTable (i : Instr) : rowOf i ∈ opcodeTable := by
  cases i <;> simp [opcodeTable, rowOf]

theorem exists_rowOf_eq {r : OpcodeRow} (h : r ∈ opcodeTable) : ∃ i, rowOf i = r := by
  revert r
  simp [opcodeTable]

/-- Two rows that agree where both masks test are one row (R85). -/
theorem row_eq_of_masks_agree : ∀ r ∈ opcodeTable, ∀ q ∈ opcodeTable,
    r.pattern &&& q.mask = q.pattern &&& r.mask → r = q := by
  decide

theorem OpcodeRow.and_mask_eq {r : OpcodeRow} {w : Word} (h : r.selects w = true) : w &&& r.mask = r.pattern := eq_of_beq h

theorem row_eq_of_selects {w : Word} {r q : OpcodeRow} (hr : r ∈ opcodeTable) (hq : q ∈ opcodeTable)
    (hrw : r.selects w = true) (hqw : q.selects w = true) : r = q := by
  refine row_eq_of_masks_agree r hr q hq ?_
  rw [← OpcodeRow.and_mask_eq hrw, ← OpcodeRow.and_mask_eq hqw, BitVec.and_assoc, BitVec.and_assoc,
    BitVec.and_comm r.mask]

/-- The row of a decoded instruction is in the table and selects the word. -/
theorem row_of_decodeWord {w : Word} {i : Instr} (h : decodeWord w = .ok i) :
    rowOf i ∈ opcodeTable ∧ (rowOf i).selects w = true := by
  rw [← encode_of_decodeWord h]
  exact ⟨rowOf_mem_opcodeTable i, encode_inRow i⟩

/-! ### What a mask and match test says of the fields -/

theorem fieldClass_of_and_class {w p : Word} (h : w &&& 0xF000 = p) : (fieldClass w).toNat = p.toNat / 4096 := by
  rw [← wordNNN_fields w, wordNNN_and_class] at h
  rw [← h, ← toNat_fieldClass, fieldClass_wordNNN]

theorem fields_of_and_low {w p : Word} (h : w &&& 0xF0FF = p) :
    (fieldClass w).toNat = p.toNat / 4096 ∧ (fieldNN w).toNat = p.toNat % 256 := by
  rw [← wordXNN_fields w, wordXNN_and_low] at h
  rw [← h, ← toNat_fieldClass, ← toNat_fieldNN, fieldClass_wordXNN, fieldNN_wordXNN]
  exact ⟨rfl, rfl⟩

theorem fields_of_and_N {w p : Word} (h : w &&& 0xF00F = p) :
    (fieldClass w).toNat = p.toNat / 4096 ∧ (fieldN w).toNat = p.toNat % 16 := by
  rw [← wordXYN_fields w, wordXYN_and_N] at h
  rw [← h, ← toNat_fieldClass, ← toNat_fieldN, fieldClass_wordXYN, fieldN_wordXYN]
  exact ⟨rfl, rfl⟩

/-- A word that some instruction's row selects decodes: its class, and where the row tests them NN or N, are those of the
row's arm of the decoder. -/
theorem decodes_of_selects {w : Word} {i : Instr} (h : (rowOf i).selects w = true) : ∃ j, decodeWord w = .ok j := by
  have h := OpcodeRow.and_mask_eq h
  cases i
  case cls | ret | skp | sknp | ldVxDt | ldDtVx | ldStVx | addIVx | ldVxK | ldFVx | ldBVx | ldMemVx | ldVxMem =>
    obtain ⟨hc, hn⟩ := fields_of_and_low h
    simp [rowOf, decodeWord, decodeClass0, decodeClassE, decodeClassF, hc, hn]
  case ldReg | or | and | xor | addReg | sub | shr | subn | shl =>
    obtain ⟨hc, hn⟩ := fields_of_and_N h
    simp [rowOf, decodeWord, decodeClass8, hc, hn]
  all_goals
    have hc := fieldClass_of_and_class h
    simp [rowOf, decodeWord, hc]

/-! ### The words of no row -/

theorem decodeClass0_error_iff (w : Word) :
    decodeClass0 w = .error (.unmatched w) ↔ (fieldNN w).toNat ∉ [0xE0, 0xEE] := by
  unfold decodeClass0
  split <;> simp_all

theorem decodeClass8_error_iff (w : Word) :
    decodeClass8 w = .error (.unmatched w) ↔ (fieldN w).toNat ∉ [0, 1, 2, 3, 4, 5, 6, 7, 0xE] := by
  unfold decodeClass8
  split <;> simp_all

theorem decodeClassE_error_iff (w : Word) :
    decodeClassE w = .error (.unmatched w) ↔ (fieldNN w).toNat ∉ [0x9E, 0xA1] := by
  unfold decodeClassE
  split <;> simp_all

theorem decodeClassF_error_iff (w : Word) :
    decodeClassF w = .error (.unmatched w) ↔
      (fieldNN w).toNat ∉ [0x07, 0x0A, 0x15, 0x18, 0x1E, 0x29, 0x33, 0x55, 0x65] := by
  unfold decodeClassF
  split <;> simp_all

/-- Only the classes 0, 8, E and F have words of no row. -/
theorem decodeWord_error_iff (w : Word) :
    decodeWord w = .error (.unmatched w) ↔
      (fieldClass w = 0x0 ∧ decodeClass0 w = .error (.unmatched w)) ∨
      (fieldClass w = 0x8 ∧ decodeClass8 w = .error (.unmatched w)) ∨
      (fieldClass w = 0xE ∧ decodeClassE w = .error (.unmatched w)) ∨
      (fieldClass w = 0xF ∧ decodeClassF w = .error (.unmatched w)) := by
  have hc := (fieldClass w).isLt
  simp only [← BitVec.toNat_inj]
  unfold decodeWord
  split
  case h_16 =>
    have hc : (fieldClass w).toNat = 0xF := by
      simp only [imp_false] at *
      omega
    simp [hc]
  all_goals simp_all

/-! ### The obligations -/

/-- Settles O1: the fields of an encoded word are the operands, and its two bytes give the word back. -/
theorem decodeOfEncode : Obligations.DecodeOfEncode := by
  intro i
  refine ⟨decodeWord_encode i, fun rest => ?_⟩
  simp only [bytesOfWord, List.cons_append, List.nil_append, decode, wordOfBytes_bytesOfWord, decodeWord_encode]

/-- Settles O2, by the arms of the decoder: each keeps every field its class and tested nibbles do not fix. -/
theorem encodeOfDecode : Obligations.EncodeOfDecode := fun _ _ => encode_of_decodeWord

/-- Settles O3: a decoded word is its instruction's own encoding, which is in its row; a selected word decodes, and no other
row than the selecting one can be the row of what it decodes to. -/
theorem decoderFollowsTheOpcodeMap : Obligations.DecoderFollowsTheOpcodeMap := by
  refine ⟨rfl, fun w r hr hrw => ?_, fun w i => row_of_decodeWord, fun w r q hr hq => row_eq_of_selects hr hq⟩
  obtain ⟨i, rfl⟩ := exists_rowOf_eq hr
  obtain ⟨j, hj⟩ := decodes_of_selects hrw
  obtain ⟨hmem, hsel⟩ := row_of_decodeWord hj
  exact ⟨j, hj, row_eq_of_selects hmem hr hsel hrw⟩

/-- Settles O4: the decoder misses only in four classes, each by its tested nibbles, of which there are at most 256 pairs. -/
theorem unmatchedWordsAreThoseOfTheMap : Obligations.UnmatchedWordsAreThoseOfTheMap := by
  intro w
  rw [decodeWord_error_iff, decodeClass0_error_iff, decodeClass8_error_iff, decodeClassE_error_iff,
    decodeClassF_error_iff, toNat_fieldNN_eq]
  generalize fieldY w = y, fieldN w = n
  refine or_congr (and_congr_right fun _ => ?_) (or_congr (and_congr_right fun _ => ?_)
    (or_congr (and_congr_right fun _ => ?_) (and_congr_right fun _ => ?_)))
  · revert y n; decide
  · revert n; decide
  · revert y n; decide
  · revert y n; decide

/-- Settles O5, by running the decoder on the seven words. -/
theorem sampleWordsDecode : Obligations.SampleWordsDecode := by
  unfold Obligations.SampleWordsDecode
  decide

end Sys2Proof
end

section
/-! SUPPORT. What each instruction answers: one equation per instruction that does not fault, one rule for all that do
(60_exceptions.md R232, R233), and, from these, everything an instruction can change. -/

namespace Sys2Proof.Machine

/-- An instruction and a Step answer one next state. -/
theorem next_unique {answer : Host.Outcome State Fault Refusal} {s t : State} (hs : answer = .next s)
    (ht : answer = .next t) : s = t := Host.Outcome.next.inj (hs.symm.trans ht)

/-! ### What each instruction answers where it does not fault -/

theorem exec_cls (x : Nibble) (s : State) : exec (.cls x) s = .next { s with pix := clearGrid, dirty := true } := rfl

theorem exec_jp (nnn : Addr) (s : State) : exec (.jp nnn) s = .next (s.setPc (zextAddr nnn)) := rfl

theorem exec_jpV0 (nnn : Addr) (s : State) : exec (.jpV0 nnn) s = .next (s.setPc (s.indexedTarget nnn)) := rfl

theorem exec_seImm (x : Nibble) (nn : Byte) (s : State) :
    exec (.seImm x nn) s = .next (s.skipIf (s.reg x == nn)) := rfl

theorem exec_sneImm (x : Nibble) (nn : Byte) (s : State) :
    exec (.sneImm x nn) s = .next (s.skipIf (s.reg x != nn)) := rfl

theorem exec_seReg (x y n : Nibble) (s : State) :
    exec (.seReg x y n) s = .next (s.skipIf (s.reg x == s.reg y)) := rfl

theorem exec_sneReg (x y n : Nibble) (s : State) :
    exec (.sneReg x y n) s = .next (s.skipIf (s.reg x != s.reg y)) := rfl

theorem exec_addReg (x y : Nibble) (s : State) :
    exec (.addReg x y) s =
      .next ((s.setReg x (wrap8 ((s.reg x).toNat + (s.reg y).toNat))).setFlag (carryFlag (s.reg x) (s.reg y))) := rfl

theorem exec_sub (x y : Nibble) (s : State) :
    exec (.sub x y) s =
      .next ((s.setReg x (wrap8 ((s.reg x).toNat + 256 - (s.reg y).toNat))).setFlag
        (notBorrowFlag (s.reg x) (s.reg y))) := rfl

theorem exec_subn (x y : Nibble) (s : State) :
    exec (.subn x y) s =
      .next ((s.setReg x (wrap8 ((s.reg y).toNat + 256 - (s.reg x).toNat))).setFlag
        (notBorrowFlag (s.reg y) (s.reg x))) := rfl

theorem exec_shr (x y : Nibble) (s : State) :
    exec (.shr x y) s =
      .next ((s.setFlag (bitFlag (s.reg x) 0)).setReg x ((s.setFlag (bitFlag (s.reg x) 0)).reg x >>> 1)) := rfl

theorem exec_shl (x y : Nibble) (s : State) :
    exec (.shl x y) s =
      .next ((s.setFlag (bitFlag (s.reg x) s.params.shlFlagBit.val)).setReg x
        ((s.setFlag (bitFlag (s.reg x) s.params.shlFlagBit.val)).reg x <<< 1)) := rfl

theorem exec_rnd (x : Nibble) (nn : Byte) (s : State) : exec (.rnd x nn) s = .next (s.setReg x (s.draw &&& nn)) := rfl

theorem exec_ldVxK_take (x : Nibble) {s : State} (h : s.justReleased = true) :
    exec (.ldVxK x) s = .next { s.setReg x (zextNibble s.lastReleased) with justReleased := false } := if_pos h

theorem exec_ldVxK_wait (x : Nibble) {s : State} (h : s.justReleased = false) :
    exec (.ldVxK x) s = .next (s.setPc (s.pc - 2)) := if_neg (by simp [h])

theorem exec_call (nnn : Addr) {s : State} (h : s.sp.val < 32) :
    exec (.call nnn) s = .next { s with
      stack := s.stack.set s.sp.val s.pc h, sp := ⟨s.sp.val + 1, Nat.succ_lt_succ h⟩, pc := zextAddr nnn } := by
  show execCall nnn s = _
  rw [execCall, State.push_some s s.pc h]
  rfl

theorem exec_ret (x : Nibble) {s : State} (h : s.sp.val ≠ 0) :
    exec (.ret x) s = .next { s with
      sp := ⟨s.sp.val - 1, by omega⟩, pc := s.stack[s.sp.val - 1]'(by omega) } := by
  show execRet x s = _
  rw [execRet, State.pop_some s h]
  rfl

theorem exec_skp (x : Nibble) {s : State} (h : (s.reg x).toNat < 16) :
    exec (.skp x) s = .next (s.skipIf (s.key[(s.reg x).toNat]'h)) := by
  show execSkp x s = _
  rw [execSkp, State.keyPressed_some s _ h]

theorem exec_sknp (x : Nibble) {s : State} (h : (s.reg x).toNat < 16) :
    exec (.sknp x) s = .next (s.skipIf (!s.key[(s.reg x).toNat]'h)) := by
  show execSknp x s = _
  rw [execSknp, State.keyPressed_some s _ h]

/-- The draw of DXYN: its new grid and its collision (R122). -/
def State.drawn (s : State) (x y n : Nibble) : Grid × Bool :=
  drawSprite s.pix (s.reg x).toNat (s.reg y).toNat (s.readBytes s.i.toNat n.toNat)

theorem exec_drw (x y : Nibble) {n : Nibble} {s : State} (h : n.toNat = 0 ∨ s.i.toNat + n.toNat ≤ 4096) :
    exec (.drw x y n) s =
      .next { s.setFlag (b2u (s.drawn x y n).2) with pix := (s.drawn x y n).1, dirty := true } :=
  if_pos ((s.rangeInMemory_iff _).2 h)

theorem exec_addIVx (x : Nibble) {s : State} (h : s.i.toNat + (s.reg x).toNat ≤ 0xFFFF) :
    exec (.addIVx x) s = .next ((s.setI (BitVec.ofNat 16 (s.i.toNat + (s.reg x).toNat))).setFlag
      (beyondMemoryFlag (s.i.toNat + (s.reg x).toNat))) := if_neg (by omega)

theorem exec_ldBVx (x : Nibble) {s : State} (h : s.i.toNat + 2 < 4096) :
    exec (.ldBVx x) s = .next (s.writeBytes s.i.toNat (decimalDigits (s.reg x))) :=
  if_pos ((s.rangeInMemory_iff _).2 (by omega))

theorem exec_ldMemVx {x : Nibble} {s : State} (h : s.i.toNat + x.toNat < 4096) :
    exec (.ldMemVx x) s = .next (s.writeBytes s.i.toNat (s.regsUpTo x)) :=
  if_pos ((s.rangeInMemory_iff _).2 (by omega))

theorem exec_ldVxMem {x : Nibble} {s : State} (h : s.i.toNat + x.toNat < 4096) :
    exec (.ldVxMem x) s = .next (s.setRegs 0 (s.readBytes s.i.toNat (x.toNat + 1))) :=
  if_pos ((s.rangeInMemory_iff _).2 (by omega))

/-! ### Where it faults -/

/-- An instruction whose condition in the table of R233 holds enters that fault and does nothing else. -/
theorem exec_of_faultCondition {i : Instr} {s : State} {c : Fault} (h : faultCondition i s = some c) :
    exec i s = .next (faultedBy c i s) := by
  cases i
  case drw | ldBVx | ldMemVx | ldVxMem =>
    obtain ⟨past, ⟨⟩⟩ := Option.ite_none_right_eq_some.1 h
    exact if_neg (mt (s.rangeInMemory_iff _).1 (by simp only [Config.memSize] at past; omega))
  case call nnn =>
    obtain ⟨full, ⟨⟩⟩ := Option.ite_none_right_eq_some.1 h
    show execCall nnn s = _
    rw [execCall, State.push_none s _ full]
    rfl
  case ret x =>
    obtain ⟨empty, ⟨⟩⟩ := Option.ite_none_right_eq_some.1 h
    show execRet x s = _
    rw [execRet, State.pop_none s empty]
    rfl
  case addIVx =>
    obtain ⟨past, ⟨⟩⟩ := Option.ite_none_right_eq_some.1 h
    exact if_pos past
  case skp x =>
    obtain ⟨above, ⟨⟩⟩ := Option.ite_none_right_eq_some.1 h
    show execSkp x s = _
    rw [execSkp, State.keyPressed_none s _ above]
    rfl
  case sknp x =>
    obtain ⟨above, ⟨⟩⟩ := Option.ite_none_right_eq_some.1 h
    show execSknp x s = _
    rw [execSknp, State.keyPressed_none s _ above]
    rfl
  all_goals cases h

/-! ### What a faulting instruction knows of its operands where it does not fault -/

theorem not_of_ite_eq_none {p : Prop} [Decidable p] {c : Fault} (h : (if p then some c else none) = none) : ¬ p :=
  fun hp => Option.some_ne_none c ((if_pos hp).symm.trans h)

theorem State.sp_le (s : State) : s.sp.val ≤ 32 := Nat.le_of_lt_succ s.sp.isLt

section
variable {s : State} {x y n : Nibble} {nnn : Addr}

theorem drw_inMemory (h : faultCondition (.drw x y n) s = none) : n.toNat = 0 ∨ s.i.toNat + n.toNat ≤ 4096 := by
  have inMemory : ¬ (0 < n.toNat ∧ 4096 ≤ s.i.toNat + n.toNat - 1) := not_of_ite_eq_none h
  omega

theorem ldBVx_inMemory (h : faultCondition (.ldBVx x) s = none) : s.i.toNat + 2 < 4096 :=
  Nat.lt_of_not_le (not_of_ite_eq_none h)

theorem ldMemVx_inMemory (h : faultCondition (.ldMemVx x) s = none) : s.i.toNat + x.toNat < 4096 :=
  Nat.lt_of_not_le (not_of_ite_eq_none h)

theorem ldVxMem_inMemory (h : faultCondition (.ldVxMem x) s = none) : s.i.toNat + x.toNat < 4096 :=
  Nat.lt_of_not_le (not_of_ite_eq_none h)

theorem call_notFull (h : faultCondition (.call nnn) s = none) : s.sp.val < 32 :=
  Nat.lt_of_le_of_ne s.sp_le (not_of_ite_eq_none h)

theorem ret_notEmpty (h : faultCondition (.ret x) s = none) : s.sp.val ≠ 0 := not_of_ite_eq_none h

theorem addIVx_fits (h : faultCondition (.addIVx x) s = none) : s.i.toNat + (s.reg x).toNat ≤ 0xFFFF :=
  Nat.le_of_not_lt (not_of_ite_eq_none h)

theorem skp_key (h : faultCondition (.skp x) s = none) : (s.reg x).toNat < 16 :=
  Nat.lt_succ_of_le (Nat.le_of_not_lt (not_of_ite_eq_none h))

theorem sknp_key (h : faultCondition (.sknp x) s = none) : (s.reg x).toNat < 16 :=
  Nat.lt_succ_of_le (Nat.le_of_not_lt (not_of_ite_eq_none h))

end

/-! ### The block load -/

/-- The registers a block load leaves (R195). -/
theorem reg_load (s : State) (x r : Nibble) :
    (s.setRegs 0 (s.readBytes s.i.toNat (x.toNat + 1))).reg r =
      if r.toNat ≤ x.toNat then s.readByte (s.i.toNat + r.toNat) else s.reg r := by
  have fits : 0 + (s.readBytes s.i.toNat (x.toNat + 1)).length ≤ 16 := by
    rw [State.length_readBytes]
    omega
  rw [State.reg_setRegs s 0 _ fits, if_pos (Nat.zero_le _), Nat.sub_zero, List.getD_eq_getElem?_getD,
    State.getElem?_readBytes, apply_ite (Option.getD · (s.reg r))]
  simp only [Nat.lt_succ_iff, Option.getD_some, Option.getD_none]

/-- The block load writes only the register file. -/
theorem load_eq (s : State) (x : Nibble) :
    s.setRegs 0 (s.readBytes s.i.toNat (x.toNat + 1)) =
      { s with x := (s.setRegs 0 (s.readBytes s.i.toNat (x.toNat + 1))).x } := by
  obtain ⟨regs, h⟩ := s.setRegs_eq 0 (s.readBytes s.i.toNat (x.toNat + 1))
  rw [h]

/-! ### Everything an instruction can change -/

/-- What the next state of an instruction that does not fault has in common with the state it runs on: memory changes by one
range write, pc is bounded, moved by 2 or popped, a stack entry changes only to the return address, and the last released
key, the fault status, the parameters and the model's own fields stay (40_step_cycle.md R105). -/
structure Effect (s t : State) : Prop where
  mem : ∃ a bs, t.mem = Memory.writeBytes s.params.fontData s.mem a bs
  pc : t.pc.toNat ≤ 0x10FE ∨ t.pc ∈ [s.pc - 2, s.pc, s.pc + 2] ∨ ∃ (k : Nat) (h : k < 32), t.pc = s.stack[k]
  stack : t.stack = s.stack ∨ ∃ (k : Nat) (h : k < 32), t.stack = s.stack.set k s.pc h
  lastReleased : t.lastReleased = s.lastReleased
  fault : t.fault = s.fault
  own : SameOwn s t

/-- The instructions that keep memory, pc and the stack. -/
theorem Effect.inPlace {s : State} (x : Vector Byte Config.numRegs) (i : Word) (dt st : Byte) (pix : Grid) (dirty j : Bool) :
    Effect s { s with x := x, i := i, dt := dt, st := st, pix := pix, dirty := dirty, justReleased := j } :=
  ⟨⟨0, [], rfl⟩, .inr (.inl (by simp)), .inl rfl, rfl, rfl, rfl, rfl, rfl, rfl⟩

theorem Effect.setPc {s : State} {v : Word} (h : v.toNat ≤ 0x10FE ∨ v ∈ [s.pc - 2, s.pc, s.pc + 2]) :
    Effect s (s.setPc v) :=
  ⟨⟨0, [], rfl⟩, h.imp_right .inl, .inl rfl, rfl, rfl, rfl, rfl, rfl, rfl⟩

theorem Effect.skipIf (s : State) (c : Bool) : Effect s (s.skipIf c) := by
  cases c
  · exact .setPc (v := s.pc) (.inr (by simp))
  · exact .setPc (.inr (by simp))

theorem Effect.writeBytes (s : State) (a : Nat) (bs : List Byte) : Effect s (s.writeBytes a bs) :=
  ⟨⟨a, bs, rfl⟩, .inr (.inl (by simp)), .inl rfl, rfl, rfl, rfl, rfl, rfl, rfl⟩

theorem toNat_indexedTarget (s : State) (nnn : Addr) : (s.indexedTarget nnn).toNat = (s.reg 0).toNat + nnn.toNat := by
  have := (s.reg 0).isLt
  have := nnn.isLt
  rw [State.indexedTarget, BitVec.toNat_add, toNat_zextByte, toNat_zextAddr]
  omega

/-- Every part of the machine that the instruction's row does not write keeps its value (R105). -/
def KeepsUnwritten (i : Instr) (s t : State) : Prop :=
  ((rowOf i).mnemonic ∉ ["LD_B_VX", "LD_MEM_VX"] → t.mem = s.mem) ∧
  ((rowOf i).mnemonic ∉ ["LD_I", "ADD_I_VX", "LD_F_VX"] → t.i = s.i) ∧
  ((rowOf i).mnemonic ∉ ["CALL", "RET"] → t.sp = s.sp) ∧
  ((rowOf i).mnemonic ≠ "CALL" → t.stack = s.stack) ∧
  ((rowOf i).mnemonic ≠ "LD_DT_VX" → t.dt = s.dt) ∧
  ((rowOf i).mnemonic ≠ "LD_ST_VX" → t.st = s.st) ∧
  ((rowOf i).mnemonic ∉ ["CLS", "DRW"] → t.pix = s.pix ∧ t.dirty = s.dirty) ∧
  ((rowOf i).mnemonic ≠ "LD_VX_K" → t.justReleased = s.justReleased) ∧
  t.key = s.key ∧ t.lastReleased = s.lastReleased ∧ t.params = s.params

/-- VF keeps its value, where the instruction's row writes no flag and its destination, if it has one, is not V15 (R21). -/
def KeepsFlag (i : Instr) (s t : State) : Prop :=
  (rowOf i).mnemonic ∉ ["ADD_REG", "SUB", "SUBN", "SHR", "SHL", "DRW", "ADD_I_VX"] →
  ((rowOf i).mnemonic ∈ ["LD_IMM", "ADD_IMM", "LD_REG", "OR", "AND", "XOR", "RND", "LD_VX_DT", "LD_VX_K", "LD_VX_MEM"] →
    fieldX (encode i) ≠ 15) →
  t.reg 15 = s.reg 15

/-- The flag writers claim nothing. -/
theorem KeepsFlag.of_flagWriter {i : Instr} {s t : State}
    (row : (rowOf i).mnemonic ∈ ["ADD_REG", "SUB", "SUBN", "SHR", "SHL", "DRW", "ADD_I_VX"]) : KeepsFlag i s t :=
  fun notFlag _ => absurd row notFlag

/-- One write of a destination that is not V15. -/
theorem KeepsFlag.setReg {i : Instr} (s : State) {x : Nibble} (v : Byte)
    (row : (rowOf i).mnemonic ∈
      ["LD_IMM", "ADD_IMM", "LD_REG", "OR", "AND", "XOR", "RND", "LD_VX_DT", "LD_VX_K", "LD_VX_MEM"])
    (dest : fieldX (encode i) = x) : KeepsFlag i s (s.setReg x v) :=
  fun _ notDest => s.sameRegsBut_setReg x v 15 fun e => notDest row (dest.trans e.symm)

theorem toNat_zextAddr_le (nnn : Addr) : (zextAddr nnn).toNat ≤ 0x10FE := by
  rw [toNat_zextAddr]
  omega

/-- An instruction whose condition in the table of R233 does not hold answers a next state, and all that it changes is what
`Effect` allows and its own row writes. -/
theorem exec_of_noFault {i : Instr} {s : State} (h : faultCondition i s = none) :
    ∃ t, exec i s = .next t ∧ Effect s t ∧ KeepsUnwritten i s t ∧ KeepsFlag i s t := by
  cases i
  case jp nnn =>
    exact ⟨_, exec_jp nnn s, .setPc (.inl (toNat_zextAddr_le nnn)), by simp [KeepsUnwritten], fun _ _ => rfl⟩
  case jpV0 nnn =>
    have bound : (s.indexedTarget nnn).toNat ≤ 0x10FE := by
      rw [toNat_indexedTarget]
      omega
    exact ⟨_, exec_jpV0 nnn s, .setPc (.inl bound), by simp [KeepsUnwritten], fun _ _ => rfl⟩
  case seImm x nn => exact ⟨_, exec_seImm x nn s, .skipIf s _, by simp [KeepsUnwritten], fun _ _ => s.reg_skipIf _ 15⟩
  case sneImm x nn => exact ⟨_, exec_sneImm x nn s, .skipIf s _, by simp [KeepsUnwritten], fun _ _ => s.reg_skipIf _ 15⟩
  case seReg x y n => exact ⟨_, exec_seReg x y n s, .skipIf s _, by simp [KeepsUnwritten], fun _ _ => s.reg_skipIf _ 15⟩
  case sneReg x y n => exact ⟨_, exec_sneReg x y n s, .skipIf s _, by simp [KeepsUnwritten], fun _ _ => s.reg_skipIf _ 15⟩
  case skp x =>
    exact ⟨_, exec_skp x (skp_key h), .skipIf s _, by simp [KeepsUnwritten], fun _ _ => s.reg_skipIf _ 15⟩
  case sknp x =>
    exact ⟨_, exec_sknp x (sknp_key h), .skipIf s _, by simp [KeepsUnwritten], fun _ _ => s.reg_skipIf _ 15⟩
  case call nnn =>
    have room := call_notFull h
    exact ⟨_, exec_call nnn room,
      ⟨⟨0, [], rfl⟩, .inl (toNat_zextAddr_le nnn), .inr ⟨_, room, rfl⟩, rfl, rfl, rfl, rfl, rfl, rfl⟩,
      by simp [KeepsUnwritten, rowOf], fun _ _ => rfl⟩
  case ret x =>
    exact ⟨_, exec_ret x (ret_notEmpty h),
      ⟨⟨0, [], rfl⟩, .inr (.inr ⟨_, _, rfl⟩), .inl rfl, rfl, rfl, rfl, rfl, rfl, rfl⟩,
      by simp [KeepsUnwritten, rowOf], fun _ _ => rfl⟩
  case ldBVx x =>
    exact ⟨_, exec_ldBVx x (ldBVx_inMemory h), .writeBytes .., by simp [KeepsUnwritten, rowOf], fun _ _ => rfl⟩
  case ldMemVx x =>
    exact ⟨_, exec_ldMemVx (ldMemVx_inMemory h), .writeBytes .., by simp [KeepsUnwritten, rowOf], fun _ _ => rfl⟩
  case ldVxMem x =>
    refine ⟨_, exec_ldVxMem (ldVxMem_inMemory h), ?_, ?_, fun _ notDest => ?_⟩
    · rw [load_eq]
      exact .inPlace ..
    · rw [load_eq]
      simp [KeepsUnwritten]
    · have notAll : x ≠ 15 := by simpa [rowOf, encode] using notDest
      have above : ¬ (15 : Nibble).toNat ≤ x.toNat := fun le =>
        notAll (BitVec.eq_of_toNat_eq (Nat.le_antisymm (Nat.le_of_lt_succ x.isLt) le))
      rw [reg_load, if_neg above]
  case ldVxK x =>
    cases release : s.justReleased
    · exact ⟨_, exec_ldVxK_wait x release, .setPc (.inr (by simp)), by simp [KeepsUnwritten], fun _ _ => rfl⟩
    · exact ⟨_, exec_ldVxK_take x release, .inPlace .., by simp [KeepsUnwritten, rowOf],
        .setReg s (zextNibble s.lastReleased) (by simp [rowOf]) (by simp [encode])⟩
  case drw x y n =>
    exact ⟨_, exec_drw x y (drw_inMemory h), .inPlace .., by simp [KeepsUnwritten, rowOf], .of_flagWriter (by simp [rowOf])⟩
  case addIVx x =>
    exact ⟨_, exec_addIVx x (addIVx_fits h), .inPlace .., by simp [KeepsUnwritten, rowOf], .of_flagWriter (by simp [rowOf])⟩
  case addReg | sub | subn | shr | shl =>
    exact ⟨_, rfl, .inPlace .., by simp [KeepsUnwritten], .of_flagWriter (by simp [rowOf])⟩
  case ldImm | addImm | ldReg | or | and | xor | rnd | ldVxDt =>
    exact ⟨_, rfl, .inPlace .., by simp [KeepsUnwritten], .setReg s _ (by simp [rowOf]) (by simp [encode])⟩
  case cls | ldI | ldFVx | ldDtVx | ldStVx =>
    exact ⟨_, rfl, .inPlace .., by simp [KeepsUnwritten, rowOf], fun _ _ => rfl⟩

/-! ### Every instruction -/

theorem exec_total (i : Instr) (s : State) : ∃ t, exec i s = .next t := by
  cases condition : faultCondition i s with
  | some c => exact ⟨_, exec_of_faultCondition condition⟩
  | none =>
    obtain ⟨t, ran, -⟩ := exec_of_noFault condition
    exact ⟨t, ran⟩

/-- Fault entry writes pc and the fault status and nothing else, so it keeps all that any row keeps. -/
theorem exec_keeps {i : Instr} {s t : State} (ran : exec i s = .next t) : KeepsUnwritten i s t ∧ KeepsFlag i s t := by
  cases condition : faultCondition i s with
  | some c =>
    obtain rfl := next_unique (exec_of_faultCondition condition) ran
    exact ⟨by simp [KeepsUnwritten, faultedBy], fun _ _ => rfl⟩
  | none =>
    obtain ⟨t', ran', -, kept⟩ := exec_of_noFault condition
    obtain rfl := next_unique ran' ran
    exact kept

/-- Settles O40: no instruction but a flag writer writes a register other than its destination. -/
theorem onlyFlagWritersChangeVf : Obligations.OnlyFlagWritersChangeVf := fun _ _ _ ran => (exec_keeps ran).2

/-- Settles O41: a faulting instruction writes none of these parts, and any other only those of its own row. -/
theorem eachPartHasItsOnlyWriters : Obligations.EachPartHasItsOnlyWriters := fun _ _ _ ran => (exec_keeps ran).1

end Sys2Proof.Machine
end

section
/-! SUPPORT. The Step (40_step_cycle.md R100 to R107, 60_exceptions.md R230 to R234): what it ends with for a block that is
not faulted, and from this which state and which fault record it ends with. -/

namespace Sys2Proof.Machine

/-! ### What a Step ends with -/

/-- The state the instruction of a Step runs on: the random byte taken and pc advanced (R102, R107). -/
def State.atExec (s : State) (d : Byte) : State := (s.beginStep d).advance

theorem stepDraw_past {s : State} (d : Byte) (live : s.fault = none) (hpc : 4096 ≤ s.pc.toNat + 1) :
    stepDraw d s = .next ((s.beginStep d).enterFault .fetchOob s.pc none) :=
  stepDraw_unfetched s d live (s.fetch_none hpc)

theorem stepDraw_miss {s : State} (d : Byte) {e : DecodeError} (live : s.fault = none) (hpc : s.pc.toNat + 1 < 4096)
    (miss : decodeWord s.wordAtPc = .error e) : stepDraw d s = .next (s.atExec d) := by
  rw [stepDraw_fetched s d _ live (s.fetch_some hpc)]
  exact executeWord_error _ miss

theorem stepDraw_decoded {s : State} (d : Byte) {i : Instr} (live : s.fault = none) (hpc : s.pc.toNat + 1 < 4096)
    (decoded : decodeWord s.wordAtPc = .ok i) : stepDraw d s = exec i (s.atExec d) := by
  rw [stepDraw_fetched s d _ live (s.fetch_some hpc)]
  exact executeWord_ok _ decoded

/-- An instruction's fault condition reads only I, SP and the registers, which the fetch and the advance leave alone. -/
theorem faultCondition_atExec (i : Instr) (s : State) (d : Byte) : faultCondition i (s.atExec d) = faultCondition i s := by
  cases i <;> rfl

/-- A fault seen from the Step's own start: pc is back at the fetch address, which the record names, and the word is the
fetched one (R232). -/
theorem faultedBy_atExec {s : State} (d : Byte) {i : Instr} (c : Fault) (decoded : decodeWord s.wordAtPc = .ok i) :
    faultedBy c i (s.atExec d) =
      { s with
        draw := d, steps := s.steps + 1, fault := some { code := c, pcAtFetch := s.pc, word := some s.wordAtPc } } := by
  have back : (s.atExec d).pc - 2 = s.pc := BitVec.add_sub_cancel s.pc 2
  rw [faultedBy, back, encode_of_decodeWord decoded]
  rfl

/-- No row of the table of R233 is a fetch fault: that one is of the Step (R101). -/
theorem faultCondition_ne_fetchOob (i : Instr) (s : State) : faultCondition i s ≠ some .fetchOob := by
  cases i <;> simp [faultCondition]

/-- What a Step of a block that is not faulted ends with (R100): the fetch faults, the word is of no row, or its instruction
faults or runs. -/
inductive StepResult (d : Byte) (s : State) : State → Prop
  | fetchFault (past : 4096 ≤ s.pc.toNat + 1) :
    StepResult d s { s with
      draw := d, steps := s.steps + 1, fault := some { code := .fetchOob, pcAtFetch := s.pc, word := none } }
  | miss {e : DecodeError} (hpc : s.pc.toNat + 1 < 4096) (decoded : decodeWord s.wordAtPc = .error e) :
    StepResult d s (s.atExec d)
  | fault {i : Instr} {c : Fault} (hpc : s.pc.toNat + 1 < 4096) (decoded : decodeWord s.wordAtPc = .ok i)
    (condition : faultCondition i s = some c) :
    StepResult d s { s with
      draw := d, steps := s.steps + 1, fault := some { code := c, pcAtFetch := s.pc, word := some s.wordAtPc } }
  | run {i : Instr} {t : State} (hpc : s.pc.toNat + 1 < 4096) (decoded : decodeWord s.wordAtPc = .ok i)
    (condition : faultCondition i s = none) (effect : Effect (s.atExec d) t) : StepResult d s t

theorem stepDraw_result {s : State} (d : Byte) (live : s.fault = none) :
    ∃ t, stepDraw d s = .next t ∧ StepResult d s t := by
  by_cases past : 4096 ≤ s.pc.toNat + 1
  · exact ⟨_, stepDraw_past d live past, .fetchFault past⟩
  have hpc : s.pc.toNat + 1 < 4096 := Nat.lt_of_not_le past
  cases decoded : decodeWord s.wordAtPc with
  | error e => exact ⟨_, stepDraw_miss d live hpc decoded, .miss hpc decoded⟩
  | ok i =>
    have step := stepDraw_decoded d live hpc decoded
    cases condition : faultCondition i s with
    | some c =>
      rw [exec_of_faultCondition ((faultCondition_atExec i s d).trans condition), faultedBy_atExec d c decoded] at step
      exact ⟨_, step, .fault hpc decoded condition⟩
    | none =>
      obtain ⟨t, ran, effect, -⟩ := exec_of_noFault ((faultCondition_atExec i s d).trans condition)
      exact ⟨t, step.trans ran, .run hpc decoded condition effect⟩

theorem StepResult.of_stepDraw {d : Byte} {s t : State} (live : s.fault = none) (step : stepDraw d s = .next t) :
    StepResult d s t := by
  obtain ⟨t', step', result⟩ := stepDraw_result d live
  obtain rfl := next_unique step' step
  exact result

/-! ### The obligations about one Step -/

/-- Settles O7: the Step of a word that decodes, for the free byte of `step` and for any other. -/
theorem stepRunsTheDecodedInstruction : Obligations.StepRunsTheDecodedInstruction := by
  intro s i live hpc decoded _
  exact ⟨stepDraw_decoded _ live hpc decoded, fun d => stepDraw_decoded d live hpc decoded⟩

/-- Settles O8: a word that decodes is selected by its instruction's row, so a word no row selects does not decode. -/
theorem decodeMissOnlyAdvancesPc : Obligations.DecodeMissOnlyAdvancesPc := by
  intro s d live hpc unselected
  cases decoded : decodeWord s.wordAtPc with
  | error e => exact stepDraw_miss d live hpc decoded
  | ok i =>
    obtain ⟨inTable, selects⟩ := row_of_decodeWord decoded
    exact absurd (selects.symm.trans (unselected _ inTable)) (by decide)

/-- Settles O9: the fetched word is that of the two bytes, and past memory the Step is the fetch fault. -/
theorem fetchReadsBigEndianOrFaults : Obligations.FetchReadsBigEndianOrFaults :=
  ⟨fun s hpc => ⟨_, s.fetch_some hpc, toNat_wordOfBytes _ _⟩, fun _ d live past => stepDraw_past d live past⟩

theorem stepDraw_total (d : Byte) (s : State) : ∃ t, stepDraw d s = .next t := by
  by_cases live : s.fault = none
  · obtain ⟨t, step, -⟩ := stepDraw_result d live
    exact ⟨t, step⟩
  · exact ⟨s, stepDraw_faulted s d live⟩

/-- Settles O10: an instruction faults or runs, and what a Step ends with is a next state. -/
theorem everyStepAnswersANextState : Obligations.EveryStepAnswersANextState :=
  ⟨exec_total, fun s => stepDraw_total _ s⟩

/-- Settles O11, by the ways of a Step, which are the branches of the table. -/
theorem faultRecordedExactlyWhenTheTableSays : Obligations.FaultRecordedExactlyWhenTheTableSays := by
  refine ⟨fun s d live => ?_, rfl⟩
  obtain ⟨t, step, result⟩ := stepDraw_result d live
  refine ⟨t, step, ?_⟩
  unfold expectedFault
  cases result with
  | fetchFault past => exact (if_pos past).symm
  | miss hpc decoded =>
    rw [if_neg (show ¬ Config.memSize ≤ s.pc.toNat + 1 from Nat.not_le.2 hpc), decoded]
    exact live
  | fault hpc decoded condition =>
    rw [if_neg (show ¬ Config.memSize ≤ s.pc.toNat + 1 from Nat.not_le.2 hpc), decoded]
    simp only [condition, Option.map_some]
  | run hpc decoded condition effect =>
    rw [if_neg (show ¬ Config.memSize ≤ s.pc.toNat + 1 from Nat.not_le.2 hpc), decoded]
    simp only [condition, Option.map_none]
    exact effect.fault.trans live

/-- A faulted block answers every command but Reset with the state it has (R232). -/
theorem apply_faulted {c : Command} {s : State} (faulted : s.fault ≠ none) (h : ∀ p, c ≠ .reset p) :
    apply c s = .next s := by
  obtain ⟨r, hr⟩ := Option.ne_none_iff_exists'.1 faulted
  unfold apply
  rw [hr]
  cases c
  case reset p => exact absurd rfl (h p)
  all_goals rfl

theorem apply_reset (p : Config.Params) (s : State) : apply (.reset p) s = .next (State.resetWith p) := rfl

/-- Settles O12: of the ways of a Step, the two that fault write the record and nothing else of the block. -/
theorem faultEntryDiscardsTheStepAndFreezes : Obligations.FaultEntryDiscardsTheStepAndFreezes := by
  refine ⟨fun s t d live step faulted => ?_, fun s faulted =>
    ⟨stepDraw_faulted s _ faulted, fun c hc => apply_faulted faulted hc, fun p => apply_reset p s, rfl⟩⟩
  cases StepResult.of_stepDraw live step with
  | fetchFault | fault => exact ⟨rfl, fun r hr => Option.some.inj hr ▸ rfl⟩
  | miss => exact absurd live faulted
  | run _ _ _ effect => exact absurd (effect.fault.trans live) faulted

end Sys2Proof.Machine
end

section
/-! SUPPORT. The keypad update (60_exceptions.md R242 to R246): the release scan finds the last released key it examines. -/

namespace Sys2Proof.Machine

/-- The key `k` is one that the scan examines and that this update releases (R243, R244). -/
def ScannedRelease (scan : Nat) (old new : Vector Bool Config.numKeys) (k : Fin Config.numKeys) : Prop :=
  k.val < scan ∧ releaseEdge old new k = true

section
variable {α : Type} (p : α → Bool)

theorem foldl_keepLast_eq (init : Option α) (l : List α) :
    l.foldl (fun found k => if p k then some k else found) init = (l.filter p).getLast?.or init := by
  induction l using List.reverseRecOn with
  | nil => rfl
  | append_singleton l a ih =>
    rw [List.foldl_append, List.foldl_cons, List.foldl_nil, ih, List.filter_append]
    cases h : p a <;> simp [h]

end

theorem releaseScan_eq (scan : Nat) (old new : Vector Bool Config.numKeys) :
    releaseScan scan old new =
      ((List.finRange Config.numKeys).filter fun k => k.val < scan && releaseEdge old new k).getLast? := by
  rw [releaseScan, foldl_keepLast_eq, Option.or_none]

theorem releaseScan_eq_none_iff {scan : Nat} {old new : Vector Bool Config.numKeys} :
    releaseScan scan old new = none ↔ ∀ k, ¬ ScannedRelease scan old new k := by
  rw [releaseScan_eq, List.getLast?_eq_none_iff, List.filter_eq_nil_iff]
  simp [ScannedRelease]

theorem scannedRelease_of_releaseScan {scan : Nat} {old new : Vector Bool Config.numKeys} {k : Fin Config.numKeys}
    (h : releaseScan scan old new = some k) : ScannedRelease scan old new k := by
  rw [releaseScan_eq] at h
  have := List.mem_of_getLast? h
  simpa [ScannedRelease] using this

/-- The scan goes upward, so no released key above the one it finds is examined (R245). -/
theorem releaseScan_last {scan : Nat} {old new : Vector Bool Config.numKeys} {k j : Fin Config.numKeys}
    (h : releaseScan scan old new = some k) (hj : ScannedRelease scan old new j) : j ≤ k := by
  rw [releaseScan_eq] at h
  obtain ⟨below, split⟩ := List.getLast?_eq_some_iff.1 h
  have ascending : (below ++ [k]).Pairwise (· < ·) := split ▸ (List.pairwise_lt_finRange _).filter _
  have mem : j ∈ below ++ [k] := by
    rw [← split]
    simpa [ScannedRelease] using hj
  obtain ⟨-, -, belowLast⟩ := List.pairwise_append.1 ascending
  rcases List.mem_append.1 mem with hb | hb
  · exact (belowLast j hb k (by simp)).le
  · exact (List.mem_singleton.1 hb).le

theorem State.setPressed_of_some {s : State} {ks : List Nat} {k : Fin Config.numKeys}
    (h : releaseScan s.params.releaseScanKeys.val s.key (keyVector ks) = some k) :
    s.setPressed ks = { s with key := keyVector ks, lastReleased := BitVec.ofNat 4 k.val, justReleased := true } := by
  simp only [State.setPressed, h]

theorem State.setPressed_of_none {s : State} {ks : List Nat}
    (h : releaseScan s.params.releaseScanKeys.val s.key (keyVector ks) = none) :
    s.setPressed ks = { s with key := keyVector ks, justReleased := false } := by
  simp only [State.setPressed, h]

theorem releaseEdge_keyVector (old : Vector Bool Config.numKeys) (ks : List Nat) (k : Fin Config.numKeys) :
    releaseEdge old (keyVector ks) k = true ↔ old[k.val] = true ∧ k.val ∉ ks := by
  simp [releaseEdge, keyVector]

theorem toNat_ofNat_key (k : Fin Config.numKeys) : (BitVec.ofNat 4 k.val).toNat = k.val := by
  rw [BitVec.toNat_ofNat]
  exact Nat.mod_eq_of_lt k.isLt

end Sys2Proof.Machine
end

section
/-! SUPPORT. The host's commands (60_exceptions.md R240): what each answers on a block that is not faulted, which are refused
(R257, 70_reset_and_hazards.md R272), and what Reset, Load, Tick and the reads leave. -/

namespace Sys2Proof.Machine

variable {s t : State}

theorem apply_live (c : Command) (live : s.fault = none) : apply c s = applyLive c s := by
  unfold apply
  rw [live]
  cases c <;> rfl

/-! ### What each command answers -/

theorem apply_step (d : Byte) (live : s.fault = none) : apply (.step d) s = stepDraw d s := apply_live _ live

theorem apply_load (bytes : List Byte) (live : s.fault = none) (unloaded : s.loaded = false) (unstepped : s.steps = 0) :
    apply (.load bytes) s = .next { s.writeBytes Config.progBase (loadedBytes bytes) with loaded := true } :=
  (apply_live _ live).trans (if_neg (by simp [unloaded, unstepped]))

theorem apply_load_refused (bytes : List Byte) (live : s.fault = none) (booted : s.loaded = true ∨ s.steps ≠ 0) :
    apply (.load bytes) s = .refused .loadAfterBoot :=
  (apply_live _ live).trans (if_pos (by simpa using booted))

/-- A Load that is not refused is the copy. -/
theorem apply_load_next {bytes : List Byte} (live : s.fault = none) (answer : apply (.load bytes) s = .next t) :
    t = { s.writeBytes Config.progBase (loadedBytes bytes) with loaded := true } := by
  by_cases booted : s.loaded = true ∨ s.steps ≠ 0
  · rw [apply_load_refused bytes live booted] at answer
    cases answer
  · obtain ⟨unloaded, unstepped⟩ := not_or.1 booted
    rw [apply_load bytes live (by simpa using unloaded) (by simpa using unstepped)] at answer
    exact (Host.Outcome.next.inj answer).symm

theorem apply_setPressed {ks : List Nat} (live : s.fault = none) (inRange : ∀ k ∈ ks, k < 16) :
    apply (.setPressed ks) s = .next (s.setPressed ks) :=
  (apply_live _ live).trans (if_pos (by simpa using inRange))

theorem apply_setPressed_refused {ks : List Nat} (live : s.fault = none) (outside : ∃ k ∈ ks, 16 ≤ k) :
    apply (.setPressed ks) s = .refused .keyIndexAbove15 :=
  (apply_live _ live).trans (if_neg (by simpa using outside))

/-- A SetPressed that is not refused is the keypad update. -/
theorem apply_setPressed_next {ks : List Nat} (live : s.fault = none) (answer : apply (.setPressed ks) s = .next t) :
    t = s.setPressed ks := by
  by_cases inRange : ∀ k ∈ ks, k < 16
  · rw [apply_setPressed live inRange] at answer
    exact (Host.Outcome.next.inj answer).symm
  · rw [apply_setPressed_refused live (by simpa using inRange)] at answer
    cases answer

theorem apply_tick (live : s.fault = none) : apply .tick s = .next s.tick := apply_live _ live

theorem apply_clearDirty (live : s.fault = none) : apply .clearDirty s = .next { s with dirty := false } :=
  apply_live _ live

/-- A command that only reads answers the state it was given, faulted or not. -/
theorem apply_read {c : Command} (read : c ∈ [.readDisplay, .readSound, .readFault]) : apply c s = .next s := by
  cases h : s.fault with
  | none =>
    rw [apply_live c h]
    fin_cases read <;> rfl
  | some r =>
    refine apply_faulted (by simp [h]) fun p e => ?_
    rw [e] at read
    simp at read

/-- What a command that is not refused leaves (R240): a faulted block is left as it is by any but Reset. -/
inductive CommandResult (s : State) : Command → State → Prop
  | reset (p : Config.Params) : CommandResult s (.reset p) (State.resetWith p)
  | faulted (c : Command) : CommandResult s c s
  | load (bytes : List Byte) (live : s.fault = none) :
    CommandResult s (.load bytes) { s.writeBytes Config.progBase (loadedBytes bytes) with loaded := true }
  | step {d : Byte} {t : State} (live : s.fault = none) (step : stepDraw d s = .next t) : CommandResult s (.step d) t
  | setPressed (ks : List Nat) (live : s.fault = none) : CommandResult s (.setPressed ks) (s.setPressed ks)
  | tick (live : s.fault = none) : CommandResult s .tick s.tick
  | clearDirty (live : s.fault = none) : CommandResult s .clearDirty { s with dirty := false }
  | read (c : Command) (read : c ∈ [.readDisplay, .readSound, .readFault]) : CommandResult s c s

theorem CommandResult.of_apply {c : Command} (answer : apply c s = .next t) : CommandResult s c t := by
  by_cases isReset : ∃ p, c = .reset p
  · obtain ⟨p, rfl⟩ := isReset
    exact next_unique (apply_reset p s) answer ▸ .reset p
  by_cases live : s.fault = none
  case neg => exact next_unique (apply_faulted live fun p e => isReset ⟨p, e⟩) answer ▸ .faulted c
  cases c with
  | reset p => exact absurd ⟨p, rfl⟩ isReset
  | load bytes => exact apply_load_next live answer ▸ .load bytes live
  | step d => exact .step live ((apply_step d live).symm.trans answer)
  | setPressed ks => exact apply_setPressed_next live answer ▸ .setPressed ks live
  | tick => exact next_unique (apply_tick live) answer ▸ .tick live
  | clearDirty => exact next_unique (apply_clearDirty live) answer ▸ .clearDirty live
  | readDisplay | readSound | readFault => exact next_unique (apply_read (by simp)) answer ▸ .read _ (by simp)

/-! ### Reset -/

/-- Reset leaves 0x00 outside the font (R65). -/
theorem readByte_resetWith (p : Config.Params) {a : Nat} (outside : a < 0x050 ∨ 0x0A0 ≤ a) :
    (State.resetWith p).readByte a = 0 := by
  show Memory.unlisted p.fontData a = 0
  exact dif_neg (by simp only [Config.fontBase, Config.fontSize]; omega)

/-- Settles O53: the registers are replicated zeros, and memory lists nothing, so it reads as the font and 0x00. -/
theorem resetState : Obligations.ResetState := by
  intro p s
  refine ⟨_, apply_reset p s, rfl, fun r => ?_, rfl, rfl, fun k h => ?_, rfl, rfl, getPixel_clearGrid, rfl, fun k h => ?_,
    rfl, rfl, rfl, fun k h => ?font, fun a outside => ?zero, rfl, rfl, rfl⟩
  · exact Vector.getElem_replicate _
  · exact Vector.getElem_replicate _
  · exact Vector.getElem_replicate _
  case font =>
    show Memory.unlisted p.fontData (0x050 + k) = _
    have inFont : Config.fontBase ≤ 0x050 + k ∧ 0x050 + k - Config.fontBase < Config.fontSize := by
      simp only [Config.fontBase, Config.fontSize]
      omega
    rw [Memory.unlisted, dif_pos inFont]
    congr 1
    simp [Config.fontBase]
  case zero => exact readByte_resetWith p outside

/-! ### Load -/

theorem length_loadedBytes (bytes : List Byte) : (loadedBytes bytes).length = min bytes.length 3584 := by
  rw [loadedBytes, List.length_take, Nat.min_comm]
  rfl

theorem getD_loadedBytes {bytes : List Byte} {k : Nat} (h : k < min bytes.length 3584) (b : Byte) :
    (loadedBytes bytes).getD k b = bytes.getD k 0 := by
  have inImage : k < (loadedBytes bytes).length := by rwa [length_loadedBytes]
  rw [List.getD_eq_getElem _ _ inImage, List.getD_eq_getElem _ _ (by omega)]
  exact List.getElem_take

/-- Settles O54: a Load is one range write of the image cut to 3584 bytes, which fits above 0x200. -/
theorem loadCopiesTheImage : Obligations.LoadCopiesTheImage := by
  intro s b live unloaded unstepped
  refine ⟨_, apply_load b live unloaded unstepped, fun a => ?_, rfl⟩
  have fits : Config.progBase + (loadedBytes b).length ≤ Config.memSize := by
    rw [length_loadedBytes]
    simp only [Config.progBase, Config.memSize]
    omega
  refine (s.readByte_writeBytes Config.progBase a (loadedBytes b) fits).trans ?_
  show (if 0x200 ≤ a then (loadedBytes b).getD (a - 0x200) (s.readByte a) else s.readByte a) = _
  by_cases low : 0x200 ≤ a
  case neg => rw [if_neg low, if_neg fun h => low h.1]
  rw [if_pos low]
  by_cases high : a < 0x200 + min b.length 3584
  · rw [if_pos ⟨low, high⟩, getD_loadedBytes (by omega)]
  · rw [if_neg fun h => high h.2, List.getD_eq_default _ _ (by rw [length_loadedBytes]; omega)]

/-! ### Tick and the reads -/

theorem toNat_countDown (v : Byte) : (countDown v).toNat = v.toNat - 1 := by
  unfold countDown
  split
  case isTrue h => rw [h]; rfl
  case isFalse h =>
    have : v.toNat ≠ 0 := fun e => h (BitVec.eq_of_toNat_eq e)
    rw [BitVec.toNat_sub_of_le (by simp [BitVec.le_def]; omega)]
    rfl

/-- Settles O57: the clamped decrement is the truncated subtraction. -/
theorem tickCountsDownClamped : Obligations.TickCountsDownClamped := fun s live =>
  ⟨s.tick, apply_tick live, toNat_countDown s.dt, toNat_countDown s.st, rfl⟩

theorem getElem?_renderView (g : Grid) {c r : Nat} (hc : c < 64) (hr : r < 32) :
    (renderView g)[r * 64 + c]? = some (getPixel g c r) := by
  have column : (r * 64 + c) % 64 = c := by omega
  have row : (r * 64 + c) / 64 = r := by omega
  have inView : r * 64 + c < 64 * 32 := by omega
  simp [renderView, inView, column, row]

/-- Settles O58: the view lists pixel (c, r) at `r * 64 + c`, and the reads answer the state they are given. -/
theorem displayReadAndDirtyClear : Obligations.DisplayReadAndDirtyClear := fun s =>
  ⟨⟨renderView s.pix, rfl, by simp [renderView]; rfl, fun _ _ hc hr => getElem?_renderView s.pix hc hr⟩, rfl, rfl,
    apply_read (by simp), apply_read (by simp), apply_read (by simp), apply_clearDirty⟩

/-! ### SetPressed -/

/-- Settles O56, by what the scan finds: no released key, or the last one. -/
theorem setPressedFindsTheLastRelease : Obligations.SetPressedFindsTheLastRelease := by
  refine ⟨rfl, fun s ks live inRange => ⟨_, apply_setPressed live inRange, ?_⟩⟩
  have released (k : Nat) (h : k < 16) : ScannedRelease s.params.releaseScanKeys.val s.key (keyVector ks) ⟨k, h⟩ ↔
      k < s.params.releaseScanKeys.val ∧ s.key[k]'h = true ∧ k ∉ ks := by
    rw [ScannedRelease, releaseEdge_keyVector]
  have vector (k : Nat) (h : k < 16) : (s.setPressed ks).key[k]'h = decide (k ∈ ks) := by
    simp [keyVector]
  cases scan : releaseScan s.params.releaseScanKeys.val s.key (keyVector ks) with
  | none =>
    have noRelease := releaseScan_eq_none_iff.1 scan
    have next := State.setPressed_of_none scan
    refine ⟨vector, ⟨fun h => ?_, ?_⟩, fun k h hk hold hnew _ => ?_, fun _ => ?_, ?_⟩
    · rw [next] at h
      cases h
    · rintro ⟨k, h, hr⟩
      exact absurd ((released k h).2 hr) (noRelease _)
    · exact absurd ((released k h).2 ⟨hk, hold, hnew⟩) (noRelease _)
    · rw [next]
    · rw [next]
  | some k =>
    have release := scannedRelease_of_releaseScan scan
    have next := State.setPressed_of_some scan
    obtain ⟨scanned, held, notPressed⟩ := (released k k.isLt).1 release
    refine ⟨vector, ⟨fun _ => ⟨k, k.isLt, scanned, held, notPressed⟩, fun _ => ?_⟩, fun j h hj hold hnew last => ?_, ?_, ?_⟩
    · rw [next]
    · have le : j ≤ k := releaseScan_last scan ((released j h).2 ⟨hj, hold, hnew⟩)
      have notAbove : ¬ j < k.val := fun lt => last k k.isLt lt scanned ⟨held, notPressed⟩
      rw [next]
      exact (toNat_ofNat_key k).trans (by omega)
    · intro h
      rw [next] at h
      cases h
    · rw [next]

/-! ### Refusals -/

/-- A Step of a block that is not faulted records its byte and counts itself, and does not change whether a Load happened. -/
theorem own_of_stepDraw {d : Byte} (live : s.fault = none) (step : stepDraw d s = .next t) :
    t.draw = d ∧ t.steps = s.steps + 1 ∧ t.loaded = s.loaded := by
  cases StepResult.of_stepDraw live step with
  | fetchFault | miss | fault => exact ⟨rfl, rfl, rfl⟩
  | run _ _ _ effect =>
    obtain ⟨-, draw, steps, loaded⟩ := effect.own
    exact ⟨draw, steps, loaded⟩

/-- That a Load or a Step has happened is never forgotten but by Reset (R272). -/
theorem boot_record_kept {c : Command} (notReset : ∀ p, c ≠ .reset p) (answer : apply c s = .next t) :
    s.steps ≤ t.steps ∧ (s.loaded = true → t.loaded = true) := by
  cases CommandResult.of_apply answer with
  | reset p => exact absurd rfl (notReset p)
  | load => exact ⟨le_rfl, fun _ => rfl⟩
  | step live step =>
    obtain ⟨-, steps, loaded⟩ := own_of_stepDraw live step
    exact ⟨steps ▸ Nat.le_succ _, loaded.trans⟩
  | setPressed => simp
  | faulted | tick | clearDirty | read => exact ⟨le_rfl, id⟩

/-- With nothing loaded the reset memory holds 0x0000 at 0x200, which is of no row (R272). -/
theorem stepDraw_resetWith (p : Config.Params) (d : Byte) :
    stepDraw d (State.resetWith p) = .next ((State.resetWith p).atExec d) := by
  have word : (State.resetWith p).wordAtPc = 0 := by
    show wordOfBytes ((State.resetWith p).readByte 0x200) ((State.resetWith p).readByte 0x201) = 0
    rw [readByte_resetWith p (by omega), readByte_resetWith p (by omega)]
    rfl
  have miss : decodeWord (State.resetWith p).wordAtPc = .error (.unmatched 0) := by
    rw [word]
    rfl
  exact stepDraw_miss d rfl (by simp [State.resetWith, Config.progBase]) miss

/-- Settles O55: the two refusals, and the record of Loads and Steps that only Reset forgets. -/
theorem refusedHostCommands : Obligations.RefusedHostCommands := by
  refine ⟨fun s b live booted => apply_load_refused b live booted, fun s t d live answer => ?_, fun s t b live answer => ?_,
    fun c s t notReset answer => boot_record_kept notReset answer, fun p d => ⟨_, stepDraw_resetWith p d, rfl⟩,
    fun s ks live outside => apply_setPressed_refused live outside⟩
  · rw [apply_step d live] at answer
    obtain ⟨-, steps, -⟩ := own_of_stepDraw live answer
    rw [steps]
    exact Nat.succ_ne_zero _
  · rw [apply_load_next live answer]

/-! ### The host's protocol -/

/-- Only a Load and a SetPressed can be refused. -/
theorem apply_total {c : Command} (notLoad : ∀ b, c ≠ .load b) (inRange : ∀ ks, c = .setPressed ks → ∀ k ∈ ks, k < 16)
    (s : State) : ∃ t, apply c s = .next t := by
  by_cases isReset : ∃ p, c = .reset p
  · obtain ⟨p, rfl⟩ := isReset
    exact ⟨_, apply_reset p s⟩
  by_cases live : s.fault = none
  case neg => exact ⟨s, apply_faulted live fun p e => isReset ⟨p, e⟩⟩
  cases c with
  | reset p => exact absurd ⟨p, rfl⟩ isReset
  | load b => exact absurd rfl (notLoad b)
  | step d =>
    rw [apply_step d live]
    exact stepDraw_total d s
  | setPressed ks => exact ⟨_, apply_setPressed live (inRange ks rfl)⟩
  | tick => exact ⟨_, apply_tick live⟩
  | clearDirty => exact ⟨_, apply_clearDirty live⟩
  | readDisplay | readSound | readFault => exact ⟨s, apply_read (by simp)⟩

theorem applyAll_cons {c : Command} (rest : List Command) (answer : apply c s = .next t) :
    applyAll (c :: rest) s = applyAll rest t := by
  rw [applyAll, answer]

/-- The protocol after boot has no Load, and its tail is the protocol again. -/
theorem protocolFrom_cons {fresh : Bool} {c : Command} {rest : List Command} (h : protocolFrom fresh (c :: rest) = true) :
    (∀ b, c ≠ .load b) ∧ ∃ fresh', protocolFrom fresh' rest = true := by
  cases c
  case load | reset => cases h
  case setPressed | step => exact ⟨by simp, _, (Bool.and_eq_true_iff.1 h).2⟩
  all_goals exact ⟨by simp, _, h⟩

theorem applyAll_of_protocolFrom {fresh : Bool} {cs : List Command} (protocol : protocolFrom fresh cs = true)
    (inRange : keysInRange cs) (s : State) : ∃ t, applyAll cs s = .next t := by
  induction cs generalizing fresh s with
  | nil => exact ⟨s, rfl⟩
  | cons c rest ih =>
    obtain ⟨notLoad, fresh', protocol'⟩ := protocolFrom_cons protocol
    obtain ⟨t, answer⟩ := apply_total notLoad (fun ks e => inRange ks (by simp [e])) s
    rw [applyAll_cons rest answer]
    exact ih protocol' (fun ks mem => inRange ks (List.mem_cons_of_mem _ mem)) t

/-- Settles O59: Reset and the one Load give a state, and the rest of the protocol runs from any state. -/
theorem protocolKeepingHostIsNeverRefused : Obligations.ProtocolKeepingHostIsNeverRefused := by
  intro p cs protocol inRange
  cases cs with
  | nil => cases protocol
  | cons c rest =>
    cases c
    case load b =>
      rw [applyAll_cons rest (apply_load b rfl rfl rfl)]
      exact applyAll_of_protocolFrom protocol (fun ks mem => inRange ks (List.mem_cons_of_mem _ mem)) _
    all_goals cases protocol

end Sys2Proof.Machine
end

section
/-! SUPPORT. The invariant (10_state.md R25, R38, 60_exceptions.md R232): it holds at reset, an instruction that does not
fault keeps it, fault entry keeps it, and so every Step and every command does. -/

namespace Sys2Proof.Machine

variable {s t : State}

/-! ### The moves of pc by 2 -/

theorem toNat_add_two (v : Word) : (v + 2).toNat = (v.toNat + 2) % 65536 := BitVec.toNat_add v 2

theorem toNat_sub_two (v : Word) : (v - 2).toNat = (65534 + v.toNat) % 65536 := BitVec.toNat_sub v 2

/-- The advance of a Step that fetches does not wrap (R25). -/
theorem State.toNat_advance_pc (hpc : s.pc.toNat + 1 < 4096) : s.advance.pc.toNat = s.pc.toNat + 2 := by
  rw [State.advance_pc, toNat_add_two]
  omega

/-! ### What keeps the invariant -/

theorem Inv.reset (p : Config.Params) : Inv (State.resetWith p) where
  memory := State.wf_reset p
  pc := by simp [State.resetWith, Config.progBase]
  stack := by simp [State.resetWith]
  lastReleased := Nat.zero_le _
  faultAtPc := fun _ h => nomatch h
  faultWord := fun _ h => nomatch h

/-- What Inv asks of the fault record asks nothing of a block that is not faulted. -/
theorem Inv.of_live (live : t.fault = none) (memory : Memory.wf t.params.fontData t.mem) (pc : t.pc.toNat ≤ 0x10FE)
    (stack : ∀ (k : Nat) (h : k < 32), (t.stack[k]'h).toNat ≤ 0x1000)
    (lastReleased : t.lastReleased.toNat ≤ t.params.releaseScanKeys.val - 1) : Inv t where
  memory := memory
  pc := pc
  stack := stack
  lastReleased := lastReleased
  faultAtPc := fun _ h => nomatch live.symm.trans h
  faultWord := fun _ h => nomatch live.symm.trans h

/-- The random byte and the count of Steps are in no bound, and an advance from a fetchable pc stays within R25's. -/
theorem Inv.atExec (inv : Inv s) (d : Byte) (live : s.fault = none) (hpc : s.pc.toNat + 1 < 4096) : Inv (s.atExec d) :=
  .of_live live inv.memory
    ((State.toNat_advance_pc hpc).trans_le (by omega)) inv.stack inv.lastReleased

/-- A Step that faults: the record names the address pc stands at, with a word unless the fetch faulted (R232). -/
theorem Inv.recordFault (inv : Inv s) (d : Byte) (c : Fault) (w : Option Word) (hw : w = none ↔ c = .fetchOob) :
    Inv { s with draw := d, steps := s.steps + 1, fault := some { code := c, pcAtFetch := s.pc, word := w } } where
  memory := inv.memory
  pc := inv.pc
  stack := inv.stack
  lastReleased := inv.lastReleased
  faultAtPc := by rintro r ⟨⟩; rfl
  faultWord := by rintro r ⟨⟩; exact hw

/-- An instruction that does not fault keeps the invariant, from a pc that an advance left at 2 to 0x1000. -/
theorem Inv.effect (inv : Inv s) (live : s.fault = none) (low : 2 ≤ s.pc.toNat) (high : s.pc.toNat ≤ 0x1000)
    (effect : Effect s t) : Inv t := by
  obtain ⟨params, -⟩ := effect.own
  refine .of_live (effect.fault.trans live) ?memory ?pc ?stack ?lastReleased
  case memory =>
    obtain ⟨a, bs, mem⟩ := effect.mem
    rw [params, mem]
    exact Memory.wf_writeBytes _ a bs inv.memory
  case pc =>
    rcases effect.pc with bound | moved | ⟨k, h, popped⟩
    · exact bound
    · have := s.pc.isLt
      simp only [List.mem_cons, List.not_mem_nil, or_false] at moved
      rcases moved with e | e | e <;> simp only [e, toNat_add_two, toNat_sub_two] <;> omega
    · rw [popped]
      exact (inv.stack k h).trans (by omega)
  case stack =>
    intro k hk
    rcases effect.stack with e | ⟨j, hj, e⟩ <;> simp only [e]
    · exact inv.stack k hk
    · rw [Vector.getElem_set]
      split
      · exact high
      · exact inv.stack k hk
  case lastReleased =>
    rw [effect.lastReleased, params]
    exact inv.lastReleased

theorem Inv.stepDraw {d : Byte} (inv : Inv s) (step : stepDraw d s = .next t) : Inv t := by
  by_cases live : s.fault = none
  case neg =>
    obtain rfl := next_unique (stepDraw_faulted s d live) step
    exact inv
  cases StepResult.of_stepDraw live step with
  | fetchFault => exact inv.recordFault d .fetchOob none (by simp)
  | miss hpc => exact inv.atExec d live hpc
  | @fault i c _ _ condition =>
    have notFetch : c ≠ .fetchOob := fun e => faultCondition_ne_fetchOob i s (e ▸ condition)
    exact inv.recordFault d c _ (by simp [notFetch])
  | run hpc _ _ effect =>
    have advanced : (s.atExec d).pc.toNat = s.pc.toNat + 2 := State.toNat_advance_pc hpc
    exact (inv.atExec d live hpc).effect live (by omega) (by omega) effect

/-- A keypad update reports a key that it scanned (R244), or keeps the last one. -/
theorem Inv.setPressed (inv : Inv s) (live : s.fault = none) (ks : List Nat) : Inv (s.setPressed ks) := by
  refine .of_live (by simp [live]) (by simpa using inv.memory) (by simpa using inv.pc) (by simpa using inv.stack) ?_
  rw [State.setPressed_params]
  cases scan : releaseScan s.params.releaseScanKeys.val s.key (keyVector ks) with
  | none =>
    rw [State.setPressed_of_none scan]
    exact inv.lastReleased
  | some k =>
    obtain ⟨scanned, -⟩ := scannedRelease_of_releaseScan scan
    rw [State.setPressed_of_some scan]
    exact (toNat_ofNat_key k).trans_le (by omega)

theorem Inv.apply {c : Command} (inv : Inv s) (answer : apply c s = .next t) : Inv t := by
  cases CommandResult.of_apply answer with
  | reset p => exact .reset p
  | faulted | read => exact inv
  | load _ live => exact .of_live live (Memory.wf_writeBytes _ _ _ inv.memory) inv.pc inv.stack inv.lastReleased
  | step _ step => exact inv.stepDraw step
  | setPressed ks live => exact inv.setPressed live ks
  | tick live | clearDirty live => exact .of_live live inv.memory inv.pc inv.stack inv.lastReleased

/-! ### The obligations -/

/-- Settles O47: no cell is listed, every number is 0 but pc, and no fault is recorded. -/
theorem invariantHoldsAtReset : Obligations.InvariantHoldsAtReset := Inv.reset

/-- Settles O48: a Step with its free byte is a Step with some byte. -/
theorem stepKeepsTheInvariant : Obligations.StepKeepsTheInvariant := fun _ _ inv step => inv.stepDraw step

/-- Settles O49: Reset gives a state that meets the invariant, and what each other command leaves keeps it. -/
theorem commandsKeepTheInvariant : Obligations.CommandsKeepTheInvariant := fun _ _ _ inv answer => inv.apply answer

/-- Settles O50: a fetch needs pc below 0x0FFF, so the advance and the skip after it stay below 2^16. -/
theorem pcNeverWraps : Obligations.PcNeverWraps := by
  refine ⟨fun s inv => ⟨inv.pc, fun past => s.fetch_none (by omega), fun fetched => ?_⟩, toNat_indexedTarget⟩
  have hpc : s.pc.toNat + 1 < 4096 := by
    by_contra past
    exact fetched (s.fetch_none (by omega))
  have advanced := State.toNat_advance_pc hpc
  refine ⟨advanced, by omega, fun c => ?_⟩
  rw [State.skipIf_pc]
  split
  · rw [toNat_add_two, advanced]
    omega
  · omega

end Sys2Proof.Machine
end

section
/-! SUPPORT. The sprite draw (41_display.md R120 to R128): a set bit toggles one pixel, the bits of a row toggle different
pixels and so do the rows of a sprite, so a draw toggles exactly the pixels that the sprite covers. -/

namespace Sys2Proof.Machine

/-! ### A draw as a set of toggled pixels -/

/-- From one accumulated draw to the next, exactly the pixels of `P` are toggled, and the collision becomes true exactly when
one of them was on. -/
structure Toggles (P : Nat → Nat → Prop) (a b : Grid × Bool) : Prop where
  toggled : ∀ c r, c < 64 → r < 32 → P c r → getPixel b.1 c r = !getPixel a.1 c r
  kept : ∀ c r, c < 64 → r < 32 → ¬ P c r → getPixel b.1 c r = getPixel a.1 c r
  collision : b.2 = true ↔ a.2 = true ∨ ∃ c r, c < 64 ∧ r < 32 ∧ P c r ∧ getPixel a.1 c r = true

theorem Toggles.refl (a : Grid × Bool) {P : Nat → Nat → Prop} (none : ∀ c r, r < 32 → ¬ P c r) : Toggles P a a where
  toggled := fun c r _ hr h => absurd h (none c r hr)
  kept := fun _ _ _ _ _ => rfl
  collision := ⟨.inl, fun h => h.elim id fun ⟨c, r, _, hr, h, _⟩ => absurd h (none c r hr)⟩

/-- Two draws of disjoint pixels are one draw of both sets. -/
theorem Toggles.trans {P Q R : Nat → Nat → Prop} {a b d : Grid × Bool} (first : Toggles P a b) (second : Toggles Q b d)
    (disjoint : ∀ c r, P c r → ¬ Q c r) (union : ∀ c r, R c r ↔ P c r ∨ Q c r) : Toggles R a d where
  toggled := by
    intro c r hc hr h
    rcases (union c r).1 h with hP | hQ
    · rw [second.kept c r hc hr (disjoint c r hP), first.toggled c r hc hr hP]
    · rw [second.toggled c r hc hr hQ, first.kept c r hc hr fun hP => disjoint c r hP hQ]
  kept := by
    intro c r hc hr h
    obtain ⟨hP, hQ⟩ := not_or.1 (mt (union c r).2 h)
    rw [second.kept c r hc hr hQ, first.kept c r hc hr hP]
  collision := by
    rw [second.collision, first.collision, or_assoc]
    refine or_congr_right ⟨?_, ?_⟩
    · rintro (⟨c, r, hc, hr, hP, on⟩ | ⟨c, r, hc, hr, hQ, on⟩)
      · exact ⟨c, r, hc, hr, (union c r).2 (.inl hP), on⟩
      · exact ⟨c, r, hc, hr, (union c r).2 (.inr hQ),
          (first.kept c r hc hr fun hP => disjoint c r hP hQ).symm.trans on⟩
    · rintro ⟨c, r, hc, hr, h, on⟩
      rcases (union c r).1 h with hP | hQ
      · exact .inl ⟨c, r, hc, hr, hP, on⟩
      · exact .inr ⟨c, r, hc, hr, hQ, (first.kept c r hc hr fun hP => disjoint c r hP hQ).trans on⟩

/-! ### One bit, one row, the sprite -/

/-- Bit `7 - j` of the byte is set and lands on the pixel (R123, R125). -/
def BitCovers (x row : Nat) (b : Byte) (j c r : Nat) : Prop := r = row ∧ (x + j) % 64 = c ∧ b.getLsbD (7 - j) = true

theorem toggles_blitBit (x : Nat) {row : Nat} (b : Byte) (j : Nat) (hrow : row < 32) (acc : Grid × Bool) :
    Toggles (BitCovers x row b j) acc (blitBit x row b acc j) := by
  have pixel (c r : Nat) (hc : c < 64) (hr : r < 32) :
      (r % 32 = row % 32 ∧ c % 64 = (x + j) % Config.screenW % 64) ↔ r = row ∧ (x + j) % 64 = c := by
    simp only [Config.screenW]
    omega
  unfold blitBit
  split
  case isFalse unset =>
    exact ⟨fun c r _ _ h => absurd h.2.2 unset, fun _ _ _ _ _ => rfl,
      ⟨.inl, fun h => h.elim id fun ⟨_, _, _, _, h, _⟩ => absurd h.2.2 unset⟩⟩
  case isTrue set =>
    refine ⟨?_, ?_, ?_⟩
    · rintro c r hc hr ⟨rfl, rfl, -⟩
      rw [getPixel_togglePixel, if_pos ((pixel _ _ hc hr).2 ⟨rfl, rfl⟩)]
    · intro c r hc hr h
      rw [getPixel_togglePixel, if_neg fun e => h (and_assoc.1 ⟨(pixel c r hc hr).1 e, set⟩)]
    · rw [Bool.or_eq_true]
      refine or_congr_right ⟨fun on => ⟨_, row, Nat.mod_lt _ (by decide), hrow, ⟨rfl, rfl, set⟩, on⟩, ?_⟩
      rintro ⟨c, r, -, -, ⟨rfl, rfl, -⟩, on⟩
      exact on

/-- The first `n` bits of a sprite row land on different pixels. -/
theorem toggles_foldl_blitBit (x : Nat) {row : Nat} (b : Byte) (hrow : row < 32) (acc : Grid × Bool) (n : Nat) (hn : n ≤ 8) :
    Toggles (fun c r => ∃ j < n, BitCovers x row b j c r) acc ((List.range n).foldl (blitBit x row b) acc) := by
  induction n with
  | zero => exact .refl acc (by simp)
  | succ n ih =>
    rw [List.range_succ, List.foldl_append]
    refine (ih (by omega)).trans (toggles_blitBit x b n hrow _) ?_ fun c r => Nat.exists_lt_succ_right
    rintro c r ⟨j, hj, -, hc, -⟩ ⟨-, hc', -⟩
    omega

theorem toggles_blitRow (x : Nat) {row : Nat} (b : Byte) (hrow : row < 32) (acc : Grid × Bool) :
    Toggles (fun c r => ∃ j < 8, BitCovers x row b j c r) acc (blitRow x row b acc) :=
  toggles_foldl_blitBit x b hrow acc 8 le_rfl

/-- A sprite covers what its first row covers and what the rest covers one row further down. -/
theorem spriteCovers_cons (x row : Nat) (b : Byte) (rest : List Byte) (c r : Nat) :
    SpriteCovers x row (b :: rest) c r ↔ (∃ j < 8, BitCovers x row b j c r) ∨ SpriteCovers x (row + 1) rest c r := by
  constructor
  · rintro ⟨k, j, b', hb, hr, hj, hc, set⟩
    cases k with
    | zero =>
      obtain rfl : b = b' := by simpa using hb
      exact .inl ⟨j, hj, hr.symm, hc, set⟩
    | succ k => exact .inr ⟨k, j, b', by simpa using hb, by omega, hj, hc, set⟩
  · rintro (⟨j, hj, rfl, hc, set⟩ | ⟨k, j, b', hb, hr, hj, hc, set⟩)
    · exact ⟨0, j, b, rfl, rfl, hj, hc, set⟩
    · exact ⟨k + 1, j, b', by simpa using hb, by omega, hj, hc, set⟩

/-- A sprite covers no row above its own start row. -/
theorem SpriteCovers.row_le {x row c r : Nat} {bytes : List Byte} (h : SpriteCovers x row bytes c r) : row ≤ r := by
  obtain ⟨k, _, _, _, hr, _⟩ := h
  omega

theorem toggles_blitRows (x row : Nat) (bytes : List Byte) (acc : Grid × Bool) :
    Toggles (SpriteCovers x row bytes) acc (blitRows x row bytes acc) := by
  induction bytes generalizing row acc with
  | nil => exact .refl acc fun c r _ ⟨_, _, _, hb, _⟩ => by simp at hb
  | cons b rest ih =>
    rw [blitRows]
    split
    case isTrue below => exact .refl acc fun c r hr h => absurd (lt_of_lt_of_le hr (below.trans h.row_le)) (lt_irrefl r)
    case isFalse inside =>
      refine (toggles_blitRow x b (Nat.lt_of_not_le inside) acc).trans (ih (row + 1) _) ?_
        (spriteCovers_cons x row b rest)
      rintro c r ⟨j, -, rfl, -⟩ h
      exact absurd h.row_le (by omega)

theorem toggles_drawSprite (g : Grid) (x y : Nat) (bytes : List Byte) :
    Toggles (SpriteCovers x y bytes) (g, false) (drawSprite g x y bytes) := toggles_blitRows x y bytes (g, false)

/-- The collision of a draw (R124). -/
theorem drawSprite_collision (g : Grid) (x y : Nat) (bytes : List Byte) :
    (drawSprite g x y bytes).2 = true ↔
      ∃ c r, c < 64 ∧ r < 32 ∧ SpriteCovers x y bytes c r ∧ getPixel g c r = true := by
  simpa using (toggles_drawSprite g x y bytes).collision

/-! ### The obligations -/

/-- Settles O16: the two halves of `Toggles` and the collision, for the sprite's own set of pixels. -/
theorem spriteDrawTogglesCoveredPixels : Obligations.SpriteDrawTogglesCoveredPixels := by
  intro g x y bytes
  have draw := toggles_drawSprite g x y bytes
  exact ⟨fun c r hc hr => ⟨draw.toggled c r hc hr, draw.kept c r hc hr⟩, drawSprite_collision g x y bytes⟩

/-- Settles O17: a covered pixel is toggled back and any other is kept twice; where a covered pixel was off before the first
draw, it is on before the second. -/
theorem drawingTwiceRestoresTheGrid : Obligations.DrawingTwiceRestoresTheGrid := by
  intro g x y bytes
  have secondCollides (g : Grid) : (drawSprite (drawSprite g x y bytes).1 x y bytes).2 = true ↔
      ∃ c r, c < 64 ∧ r < 32 ∧ SpriteCovers x y bytes c r ∧ getPixel g c r = false := by
    rw [drawSprite_collision]
    refine exists₂_congr fun c r => and_congr_right fun hc => and_congr_right fun hr => and_congr_right fun h => ?_
    rw [(toggles_drawSprite g x y bytes).toggled c r hc hr h, Bool.not_eq_true']
  refine ⟨grid_ext fun c hc r hr => ?_, secondCollides g, ?_, fun ⟨c, r, hc, hr, h⟩ =>
    (secondCollides clearGrid).2 ⟨c, r, hc, hr, h, getPixel_clearGrid c r⟩⟩
  · have first := toggles_drawSprite g x y bytes
    have second := toggles_drawSprite (drawSprite g x y bytes).1 x y bytes
    by_cases h : SpriteCovers x y bytes c r
    · rw [second.toggled c r hc hr h, first.toggled c r hc hr h, Bool.not_not]
    · rw [second.kept c r hc hr h, first.kept c r hc hr h]
  · rw [Bool.eq_false_iff, Ne, drawSprite_collision]
    rintro ⟨c, r, -, -, -, on⟩
    rw [getPixel_clearGrid] at on
    cases on

/-- Settles O14: CLS writes the cleared grid, whatever its X nibble. -/
theorem clearTurnsEveryPixelOff : Obligations.ClearTurnsEveryPixelOff := fun x s =>
  ⟨encode_and_mask (encode_inRow (.cls x)), _, exec_cls x s, getPixel_clearGrid, rfl, rfl⟩

/-- Settles O15: where the bytes are in memory DRW is the draw and one flag write, and where not it is the table's fault. -/
theorem drawInstructionDrawsAndReportsCollision : Obligations.DrawInstructionDrawsAndReportsCollision := by
  intro x y n s
  exact ⟨encode_and_mask (encode_inRow (.drw x y n)),
    fun inMemory => ⟨_, exec_drw x y (by omega), rfl,
      (congrArg BitVec.toNat (s.reg_setReg_self 15 _)).trans (toNat_b2u _), s.sameRegsBut_setReg 15 _, rfl, rfl⟩,
    fun past => exec_of_faultCondition (if_pos past)⟩

end Sys2Proof.Machine
end

section
/-! SUPPORT. The control-flow instructions and the key tests (42_control_flow.md, 45_keypad_timers.md section 1): each moves
pc, and only CALL and RET move the stack. -/

namespace Sys2Proof.Machine

/-- A skip moves pc and nothing else (R140). -/
theorem State.skipIf_eq (s : State) (c : Bool) : s.skipIf c = { s with pc := if c = true then s.pc + 2 else s.pc } := by
  cases c <;> rfl

/-- A comparison's condition as one on numbers: skip when equal. -/
theorem skipIf_beq_eq (s : State) (a b : Byte) :
    s.skipIf (a == b) = { s with pc := if a.toNat = b.toNat then s.pc + 2 else s.pc } := by
  rw [State.skipIf_eq]
  simp only [beq_iff_eq, ← BitVec.toNat_inj]

/-- A comparison's condition as one on numbers: skip when different. -/
theorem skipIf_bne_eq (s : State) (a b : Byte) :
    s.skipIf (a != b) = { s with pc := if a.toNat = b.toNat then s.pc else s.pc + 2 } := by
  rw [State.skipIf_eq]
  simp only [bne_iff_ne, ne_eq, ← BitVec.toNat_inj, ite_not]

/-! ### The obligations -/

/-- Settles O6: the decoder keeps the ignored nibble as an operand, and no meaning reads it. -/
theorem ignoredNibblesAreIgnored : Obligations.IgnoredNibblesAreIgnored :=
  ⟨fun x => decodeWord_encode (.cls x), fun _ _ _ => rfl, fun x => decodeWord_encode (.ret x),
    fun x x' _ notEmpty => (exec_ret x notEmpty).trans (exec_ret x' notEmpty).symm,
    fun x y n => decodeWord_encode (.seReg x y n), fun _ _ _ _ _ => rfl,
    fun x y n => decodeWord_encode (.sneReg x y n), fun _ _ _ _ _ => rfl⟩

/-- Settles O22: each jump is one write of pc, and V0 + NNN is at most 0xFF + 0xFFF. -/
theorem jumpsSetPc : Obligations.JumpsSetPc := by
  intro nnn s
  refine ⟨encode_and_mask (encode_inRow (.jp nnn)), encode_and_mask (encode_inRow (.jpV0 nnn)),
    ⟨_, exec_jp nnn s, toNat_zextAddr nnn, rfl⟩, ⟨_, exec_jpV0 nnn s, toNat_indexedTarget s nnn, ?_, rfl⟩⟩
  rw [State.setPc_pc, toNat_indexedTarget]
  omega

/-- Settles O23: each comparison is one skip, on equality or on difference. -/
theorem comparisonsSkip : Obligations.ComparisonsSkip := by
  intro x y n nn s
  refine ⟨encode_and_mask (encode_inRow (.seImm x nn)), encode_and_mask (encode_inRow (.sneImm x nn)),
    encode_and_mask (encode_inRow (.seReg x y n)), encode_and_mask (encode_inRow (.sneReg x y n)), ?_, ?_, ?_, ?_⟩
  · rw [exec_seImm, skipIf_beq_eq]
  · rw [exec_sneImm, skipIf_bne_eq]
  · rw [exec_seReg, skipIf_beq_eq]
  · rw [exec_sneReg, skipIf_bne_eq]

/-- Settles O37: a key test is one skip on the key that Vx numbers, and above 15 it is the table's fault. -/
theorem keyTestsSkip : Obligations.KeyTestsSkip := by
  intro x s
  refine ⟨encode_and_mask (encode_inRow (.skp x)), encode_and_mask (encode_inRow (.sknp x)), fun h => ⟨?_, ?_⟩,
    fun above => ⟨exec_of_faultCondition (if_pos above), exec_of_faultCondition (if_pos above)⟩⟩
  · rw [exec_skp x h, State.skipIf_eq]
  · rw [exec_sknp x h, State.skipIf_eq]
    simp only [Bool.not_eq_true', ← Bool.not_eq_true, ite_not]

/-- Settles O19: the pop of a stack that is not empty, and the table's fault where it is. -/
theorem returnPopsTheReturnAddress : Obligations.ReturnPopsTheReturnAddress := by
  intro x s
  refine ⟨encode_and_mask (encode_inRow (.ret x)), fun k h sp => ?_, fun empty => exec_of_faultCondition (if_pos empty)⟩
  refine ⟨_, exec_ret x (by omega), ?_, ?_, rfl⟩
  · show s.sp.val - 1 = k
    omega
  · simp only [sp, Nat.add_sub_cancel]

/-- Settles O20: the push on a stack that is not full, and the table's fault where it is. -/
theorem callPushesTheReturnAddress : Obligations.CallPushesTheReturnAddress := by
  intro nnn s
  exact ⟨encode_and_mask (encode_inRow (.call nnn)), fun room => ⟨_, exec_call nnn room, Vector.getElem_set_self room,
    fun k hk ne => Vector.getElem_set_ne room hk ne.symm, rfl, toNat_zextAddr nnn, rfl⟩,
    fun full => exec_of_faultCondition (if_pos full)⟩

/-- Settles O21: the return pops the entry that the call pushed. -/
theorem returnAfterCallResumes : Obligations.ReturnAfterCallResumes := by
  intro nnn x s t u room called stack sp
  obtain rfl := next_unique (exec_call nnn room) called
  have spVal : u.sp.val = s.sp.val + 1 := by rw [sp]
  refine ⟨_, exec_ret x (by omega), ?_, ?_⟩
  · simp only [stack, spVal, Nat.add_sub_cancel]
    exact Vector.getElem_set_self room
  · simp only [spVal, Nat.add_sub_cancel]

end Sys2Proof.Machine
end

section
/-! SUPPORT. The arithmetic instructions that write VF besides their destination (43_register_alu.md R166 to R173): what two
register writes in a row leave in each register, as numbers. -/

namespace Sys2Proof.Machine

/-! ### Two writes in a row -/

/-- The result, then the flag: the flag stays when the destination is VF (R173). -/
theorem toNat_reg_setReg_setFlag (s : State) (x r : Nibble) (v f : Byte) :
    (((s.setReg x v).setFlag f).reg r).toNat =
      if r = 15 then f.toNat else if r = x then v.toNat else (s.reg r).toNat := by
  rw [State.reg_setFlag, State.reg_setReg, apply_ite BitVec.toNat, apply_ite BitVec.toNat]
  rfl

/-- The flag, then a result computed from the register as the flag write left it (R168, R170). -/
theorem toNat_reg_setFlag_setReg (s : State) (x r : Nibble) (f : Byte) (shift : Byte → Byte) :
    (((s.setFlag f).setReg x (shift ((s.setFlag f).reg x))).reg r).toNat =
      if r = x then (if x = 15 then (shift f).toNat else (shift (s.reg x)).toNat)
      else if r = 15 then f.toNat else (s.reg r).toNat := by
  have flagReg : Config.flagReg = 15 := rfl
  rw [State.reg_setReg, State.reg_setFlag, State.reg_setFlag, flagReg, apply_ite BitVec.toNat, apply_ite BitVec.toNat,
    apply_ite shift, apply_ite BitVec.toNat]

/-! ### Differences and shifts as numbers -/

/-- The wrapped difference is the difference, with 256 borrowed where it would be negative (R167). -/
theorem toNat_wrap8_sub (a b : Byte) :
    (wrap8 (a.toNat + 256 - b.toNat)).toNat =
      if a.toNat < b.toNat then a.toNat + 256 - b.toNat else a.toNat - b.toNat := by
  rw [toNat_wrap8]
  split <;> omega

theorem toNat_shiftRight_one (v : Byte) : (v >>> 1).toNat = v.toNat / 2 := by
  rw [BitVec.toNat_ushiftRight, Nat.shiftRight_eq_div_pow, pow_one]

theorem toNat_shiftLeft_one (v : Byte) : (v <<< 1).toNat = v.toNat * 2 % 256 := by
  rw [BitVec.toNat_shiftLeft, Nat.shiftLeft_eq, pow_one]

theorem toNat_bitFlag_lt_two (v : Byte) (k : Nat) : (bitFlag v k).toNat < 2 := by
  rw [toNat_bitFlag]
  exact Nat.mod_lt _ (by decide)

/-! ### The obligations -/

/-- Settles O26: the sum, then the carry. -/
theorem addWritesSumThenCarry : Obligations.AddWritesSumThenCarry := by
  intro x y s
  refine ⟨encode_and_mask (encode_inRow (.addReg x y)), _, exec_addReg x y s, fun r => ?_, rfl⟩
  rw [toNat_reg_setReg_setFlag, toNat_carryFlag, toNat_wrap8]

/-- Settles O27: the difference, then the inverted borrow, for each order of the operands. -/
theorem subtractionsWriteDifferenceThenNotBorrow : Obligations.SubtractionsWriteDifferenceThenNotBorrow := by
  intro x y s
  refine ⟨encode_and_mask (encode_inRow (.sub x y)), encode_and_mask (encode_inRow (.subn x y)),
    ⟨_, exec_sub x y s, fun r => ?_, rfl⟩, ⟨_, exec_subn x y s, fun r => ?_, rfl⟩⟩ <;>
  rw [toNat_reg_setReg_setFlag, toNat_notBorrowFlag, toNat_wrap8_sub]

/-- Settles O28: the low bit, then the half of what the flag write left, which is the flag's own half, 0, when X = 15. -/
theorem shiftRightWritesLowBitThenHalves : Obligations.ShiftRightWritesLowBitThenHalves := by
  intro x y s
  refine ⟨encode_and_mask (encode_inRow (.shr x y)), _, exec_shr x y s, fun r => ?_, rfl⟩
  have halfFlag : (bitFlag (s.reg x) 0).toNat / 2 = 0 := Nat.div_eq_of_lt (toNat_bitFlag_lt_two _ _)
  rw [toNat_reg_setFlag_setReg s x r _ (· >>> 1), toNat_shiftRight_one, toNat_shiftRight_one, halfFlag, toNat_bitFlag,
    pow_zero, Nat.div_one]

/-- Settles O29: the parameter's bit, then the double of what the flag write left, which is the flag's own when X = 15. -/
theorem shiftLeftWritesFlagBitThenDoubles : Obligations.ShiftLeftWritesFlagBitThenDoubles := by
  refine ⟨rfl, fun x y s => ⟨encode_and_mask (encode_inRow (.shl x y)), _, exec_shl x y s, fun r => ?_, rfl⟩⟩
  have flag := toNat_bitFlag_lt_two (s.reg x) s.params.shlFlagBit.val
  have twiceFlag : (bitFlag (s.reg x) s.params.shlFlagBit.val).toNat * 2 % 256 =
      (bitFlag (s.reg x) s.params.shlFlagBit.val).toNat * 2 := Nat.mod_eq_of_lt (by omega)
  rw [toNat_reg_setFlag_setReg s x r _ (· <<< 1), toNat_shiftLeft_one, toNat_shiftLeft_one, twiceFlag, toNat_bitFlag]

/-- Settles O30: RND is one register write, of the byte taken masked bit by bit. -/
theorem randomIsTheDrawMasked : Obligations.RandomIsTheDrawMasked := by
  intro x nn d s
  refine ⟨encode_and_mask (encode_inRow (.rnd x nn)), _, exec_rnd x nn _, fun k _ => ?_,
    State.sameRegsBut_setReg { s with draw := d } x _, rfl⟩
  rw [State.reg_setReg_self, BitVec.getLsbD_and]

/-- Settles O31: the arithmetic instructions at X = 15, by what their two writes leave; the others write VF once. -/
theorem lastWriteToVfStays : Obligations.LastWriteToVfStays := by
  intro y nn s
  obtain ⟨-, _, add, addReg, -⟩ := addWritesSumThenCarry 15 y s
  obtain ⟨-, -, ⟨_, sub, subReg, -⟩, ⟨_, subn, subnReg, -⟩⟩ := subtractionsWriteDifferenceThenNotBorrow 15 y s
  obtain ⟨-, _, shr, shrReg, -⟩ := shiftRightWritesLowBitThenHalves 15 y s
  obtain ⟨-, _, shl, shlReg, -⟩ := shiftLeftWritesFlagBitThenDoubles.2 15 y s
  exact ⟨⟨_, add, addReg 15⟩, ⟨_, sub, subReg 15⟩, ⟨_, subn, subnReg 15⟩, ⟨_, shr, BitVec.eq_of_toNat_eq (shrReg 15)⟩,
    ⟨_, shl, shlReg 15⟩, ⟨_, exec_ldReg 15 y s, s.reg_setReg_self 15 _⟩, ⟨_, exec_or 15 y s, s.reg_setReg_self 15 _⟩,
    ⟨_, exec_and 15 y s, s.reg_setReg_self 15 _⟩, ⟨_, exec_xor 15 y s, s.reg_setReg_self 15 _⟩,
    ⟨_, exec_ldImm 15 nn s, s.reg_setReg_self 15 _⟩,
    ⟨_, exec_addImm 15 nn s, (congrArg BitVec.toNat (s.reg_setReg_self 15 _)).trans (toNat_wrap8 _)⟩,
    ⟨_, exec_rnd 15 nn s, s.reg_setReg_self 15 _⟩, ⟨_, exec_ldVxDt 15 s, s.reg_setReg_self 15 _⟩⟩

end Sys2Proof.Machine
end

section
/-! SUPPORT. The index and memory instructions and the key wait (44_index_memory.md, 45_keypad_timers.md section 3): each
byte a store leaves, each register a load leaves, and what a later fetch reads of them (20_memory.md R74). -/

namespace Sys2Proof.Machine

variable {s t u : State}

/-! ### What a store leaves in memory -/

/-- The bytes of a store that fits: inside its range the stored byte, elsewhere the byte that was there. -/
theorem readByte_store {bs : List Byte} (fits : s.i.toNat + bs.length ≤ 4096) (a : Nat) :
    (s.writeBytes s.i.toNat bs).readByte a =
      if s.i.toNat ≤ a then bs.getD (a - s.i.toNat) (s.readByte a) else s.readByte a :=
  s.readByte_writeBytes s.i.toNat a bs fits

theorem readByte_store_add {bs : List Byte} (fits : s.i.toNat + bs.length ≤ 4096) (k : Nat) :
    (s.writeBytes s.i.toNat bs).readByte (s.i.toNat + k) = bs.getD k (s.readByte (s.i.toNat + k)) := by
  rw [readByte_store fits, if_pos (Nat.le_add_right _ _), Nat.add_sub_cancel_left]

theorem readByte_store_decimalDigits (x : Nibble) (fits : s.i.toNat + 2 < 4096) (a : Nat) :
    ((s.writeBytes s.i.toNat (decimalDigits (s.reg x))).readByte a).toNat =
      if a = s.i.toNat then (s.reg x).toNat / 100
      else if a = s.i.toNat + 1 then (s.reg x).toNat / 10 % 10
      else if a = s.i.toNat + 2 then (s.reg x).toNat % 10
      else (s.readByte a).toNat := by
  have byte := (s.reg x).isLt
  have length : s.i.toNat + (decimalDigits (s.reg x)).length ≤ 4096 := by
    rw [length_decimalDigits]
    omega
  by_cases below : a < s.i.toNat
  · rw [readByte_store length, if_neg (by omega), if_neg (by omega), if_neg (by omega), if_neg (by omega)]
  obtain ⟨k, rfl⟩ := Nat.exists_eq_add_of_le (Nat.le_of_not_lt below)
  rw [readByte_store_add length]
  match k with
  | 0 => simp [decimalDigits, toNat_wrap8]; omega
  | 1 => simp [decimalDigits, toNat_wrap8]; omega
  | 2 => simp [decimalDigits, toNat_wrap8]; omega
  | k + 3 => simp [decimalDigits]

theorem readByte_store_regsUpTo {x : Nibble} (fits : s.i.toNat + x.toNat < 4096) (a : Nat) :
    (s.writeBytes s.i.toNat (s.regsUpTo x)).readByte a =
      if s.i.toNat ≤ a ∧ a ≤ s.i.toNat + x.toNat then s.reg (BitVec.ofNat 4 (a - s.i.toNat)) else s.readByte a := by
  rw [readByte_store (by rw [State.length_regsUpTo]; omega), List.getD_eq_getElem?_getD, State.getElem?_regsUpTo]
  by_cases low : s.i.toNat ≤ a
  case neg => rw [if_neg low, if_neg fun h => low h.1]
  by_cases high : a ≤ s.i.toNat + x.toNat
  · rw [if_pos low, if_pos (by omega), if_pos ⟨low, high⟩, Option.getD_some]
  · rw [if_pos low, if_neg (by omega), if_neg fun h => high h.2, Option.getD_none]

/-! ### The obligations on single instructions -/

/-- Settles O33: a sum that fits is one write of I and one flag write, and one that does not is the table's fault. -/
theorem addIndexFlagsBeyondMemory : Obligations.AddIndexFlagsBeyondMemory := by
  intro x s
  refine ⟨encode_and_mask (encode_inRow (.addIVx x)), fun fits => ⟨_, exec_addIVx x fits, ?_,
    (congrArg BitVec.toNat (State.reg_setReg_self _ 15 _)).trans (toNat_beyondMemoryFlag _),
    State.sameRegsBut_setReg (s.setI _) 15 _, rfl⟩, fun past => exec_of_faultCondition (if_pos past)⟩
  rw [State.setFlag_i, State.setI_i, BitVec.toNat_ofNat]
  omega

/-- Settles O34, by the byte at each address after the store of the digits. -/
theorem decimalDigitsAreStored : Obligations.DecimalDigitsAreStored := fun x _ =>
  ⟨encode_and_mask (encode_inRow (.ldBVx x)),
    fun fits => ⟨_, exec_ldBVx x fits, readByte_store_decimalDigits x fits, rfl⟩,
    fun past => exec_of_faultCondition (if_pos past)⟩

/-- Settles O35, by the byte at each address after the store of the registers. -/
theorem registersAreStored : Obligations.RegistersAreStored := fun x _ =>
  ⟨encode_and_mask (encode_inRow (.ldMemVx x)),
    fun fits => ⟨_, exec_ldMemVx fits, readByte_store_regsUpTo fits, rfl⟩,
    fun past => exec_of_faultCondition (if_pos past)⟩

/-- Settles O36: the block write of registers, from the bytes at I upward. -/
theorem registersAreLoaded : Obligations.RegistersAreLoaded := fun x s =>
  ⟨encode_and_mask (encode_inRow (.ldVxMem x)), fun fits => ⟨_, exec_ldVxMem fits, reg_load s x, load_eq s x⟩,
    fun past => exec_of_faultCondition (if_pos past)⟩

/-- Settles O39: a release is taken by one register write that clears the flag, so that the next wait rewinds. -/
theorem keyWaitTakesAReleaseOrRewinds : Obligations.KeyWaitTakesAReleaseOrRewinds := by
  intro x s
  refine ⟨encode_and_mask (encode_inRow (.ldVxK x)),
    fun release => ⟨_, exec_ldVxK_take x release, fun r => ?_, rfl, rfl, fun x' => exec_ldVxK_wait x' rfl⟩,
    fun noRelease => exec_ldVxK_wait x noRelease⟩
  refine (congrArg BitVec.toNat (s.reg_setReg x r (zextNibble s.lastReleased))).trans ?_
  rw [apply_ite BitVec.toNat, toNat_zextNibble]

/-! ### What a fetch reads of a store -/

/-- A fetch sees every byte that memory reads (R101). -/
theorem State.fetchSees_of_readByte {a : Nat} {b : Byte} (read : u.readByte a = b) : u.FetchSees a b := by
  intro hpc
  refine ⟨_, u.fetch_some hpc, ?_, ?_⟩ <;> rintro rfl
  · rw [toNat_wordOfBytes, read]
    omega
  · rw [toNat_wordOfBytes, read]
    omega

theorem readByte_stored_register {x : Nibble} {k : Nat} (fits : s.i.toNat + x.toNat < 4096) (hk : k ≤ x.toNat) :
    (s.writeBytes s.i.toNat (s.regsUpTo x)).readByte (s.i.toNat + k) = s.reg (BitVec.ofNat 4 k) := by
  rw [readByte_store_regsUpTo fits, if_pos (by omega), Nat.add_sub_cancel_left]

theorem readByte_stored_digits (x : Nibble) (fits : s.i.toNat + 2 < 4096) :
    (s.writeBytes s.i.toNat (decimalDigits (s.reg x))).readByte s.i.toNat =
      BitVec.ofNat 8 ((s.reg x).toNat / 100) ∧
    (s.writeBytes s.i.toNat (decimalDigits (s.reg x))).readByte (s.i.toNat + 1) =
      BitVec.ofNat 8 ((s.reg x).toNat / 10 % 10) ∧
    (s.writeBytes s.i.toNat (decimalDigits (s.reg x))).readByte (s.i.toNat + 2) =
      BitVec.ofNat 8 ((s.reg x).toNat % 10) := by
  have digit (k : Nat) := readByte_store_add (s := s) (bs := decimalDigits (s.reg x)) (by rw [length_decimalDigits]; omega) k
  exact ⟨digit 0, digit 1, digit 2⟩

theorem wordOfBytes_ofNat {hi lo : Nat} (hhi : hi < 256) (hlo : lo < 256) :
    wordOfBytes (BitVec.ofNat 8 hi) (BitVec.ofNat 8 lo) = BitVec.ofNat 16 (hi * 256 + lo) := by
  rw [wordOfBytes, BitVec.toNat_ofNat, BitVec.toNat_ofNat, Nat.mod_eq_of_lt hhi, Nat.mod_eq_of_lt hlo]

theorem toNat_add_one (v : Word) : (v + 1).toNat = (v.toNat + 1) % 65536 := BitVec.toNat_add v 1

/-- Settles O13: both stores leave the stored byte at each address of their range, and a fetch reads what memory holds. -/
theorem storesAreSeenByTheNextFetch : Obligations.StoresAreSeenByTheNextFetch := by
  refine ⟨fun s t u x k ran fits hk same => ?_, fun s t u x ran fits same => ?_, fun s t x k ran fits hk hpc => ?_,
    fun s t x ran fits => ?_⟩
  · obtain rfl := next_unique (exec_ldMemVx fits) ran
    exact State.fetchSees_of_readByte ((same _).trans (readByte_stored_register fits hk))
  · obtain rfl := next_unique (exec_ldBVx x fits) ran
    obtain ⟨hundreds, tens, ones⟩ := readByte_stored_digits x fits
    exact ⟨State.fetchSees_of_readByte ((same _).trans hundreds), State.fetchSees_of_readByte ((same _).trans tens),
      State.fetchSees_of_readByte ((same _).trans ones)⟩
  · obtain rfl := next_unique (exec_ldMemVx fits) ran
    rw [State.fetch_some _ (by omega), hpc, readByte_stored_register fits (by omega), Nat.add_assoc,
      readByte_stored_register fits hk]
  · obtain rfl := next_unique (exec_ldBVx x fits) ran
    obtain ⟨hundreds, tens, ones⟩ := readByte_stored_digits x fits
    have byte := (s.reg x).isLt
    refine ⟨fun hpc => ?_, fun hpc => ?_⟩
    · rw [State.fetch_some _ (by rw [hpc]; omega), hpc, hundreds, tens, wordOfBytes_ofNat (by omega) (by omega)]
    · have next : (s.i + 1).toNat = s.i.toNat + 1 := (toNat_add_one s.i).trans (Nat.mod_eq_of_lt (by omega))
      rw [State.fetch_some _ (by rw [hpc, next]; omega), hpc, next, tens, ones, wordOfBytes_ofNat (by omega) (by omega)]

end Sys2Proof.Machine
end

section
/-! SUPPORT. Frames (40_step_cycle.md R105): what each instruction leaves unchanged, read off the equation of what
it answers. -/

namespace Sys2Proof.Machine

variable {s t : State}

/-! ### The frame of the register writes and of the moves of pc -/

/-- A state that differs only in registers of `p` and in pc. -/
theorem FrameRegs.of_eq {p : Nibble → Prop} (only : t = { s with x := t.x, pc := t.pc }) (regs : SameRegsBut p s t) :
    FrameRegs p s t := by
  refine ⟨regs, ?_⟩
  rw [only]
  exact ⟨fun _ => rfl, rfl, ⟨rfl, rfl⟩, ⟨rfl, rfl⟩, ⟨rfl, rfl⟩, ⟨rfl, rfl, rfl⟩, rfl, ⟨rfl, rfl, rfl, rfl⟩⟩

theorem frameRegs_setReg (s : State) (x : Nibble) (v : Byte) : FrameRegs (· = x) s (s.setReg x v) :=
  .of_eq rfl (s.sameRegsBut_setReg x v)

theorem frameRegs_setReg_setFlag (s : State) (x : Nibble) (v f : Byte) :
    FrameRegs (fun r => r = x ∨ r = 15) s ((s.setReg x v).setFlag f) := by
  refine .of_eq rfl fun r h => ?_
  obtain ⟨notDest, notFlag⟩ := not_or.1 h
  exact ((s.setReg x v).sameRegsBut_setReg 15 f r notFlag).trans (s.sameRegsBut_setReg x v r notDest)

theorem frameRegs_setFlag_setReg (s : State) (x : Nibble) (v f : Byte) :
    FrameRegs (fun r => r = x ∨ r = 15) s ((s.setFlag f).setReg x v) := by
  refine .of_eq rfl fun r h => ?_
  obtain ⟨notDest, notFlag⟩ := not_or.1 h
  exact ((s.setFlag f).sameRegsBut_setReg x v r notDest).trans (s.sameRegsBut_setReg 15 f r notFlag)

theorem frameRegs_setPc (s : State) (v : Word) : FrameRegs (fun _ => False) s (s.setPc v) := .of_eq rfl fun _ _ => rfl

theorem frameRegs_skipIf (s : State) (c : Bool) : FrameRegs (fun _ => False) s (s.skipIf c) := by
  rw [State.skipIf_eq]
  exact frameRegs_setPc s _

/-- Settles O42: one register write, or two in either order. -/
theorem frameOfRegisterInstructions : Obligations.FrameOfRegisterInstructions := by
  refine ⟨fun x y nn s t ran => ?_, fun x y s t ran => ?_⟩
  · rcases ran with ran | ran | ran | ran | ran | ran | ran | ran <;>
      obtain rfl := Host.Outcome.next.inj ran <;> exact ⟨frameRegs_setReg s x _, rfl⟩
  · rcases ran with ran | ran | ran | ran | ran <;> obtain rfl := Host.Outcome.next.inj ran
    · exact ⟨frameRegs_setReg_setFlag s x _ _, rfl⟩
    · exact ⟨frameRegs_setReg_setFlag s x _ _, rfl⟩
    · exact ⟨frameRegs_setReg_setFlag s x _ _, rfl⟩
    · exact ⟨frameRegs_setFlag_setReg s x _ _, rfl⟩
    · exact ⟨frameRegs_setFlag_setReg s x _ _, rfl⟩

/-- Settles O43: a jump or a skip is one move of pc; a return lowers SP too, and a call also writes the entry at SP. -/
theorem frameOfControlFlow : Obligations.FrameOfControlFlow := by
  refine ⟨fun x y n nn nnn s t ran => ?_, fun x nnn s t ran => ?_, fun x s t notEmpty ran => ?_⟩
  · rcases ran with ran | ran | ran | ran | ran | ran | ⟨key, ran | ran⟩
    · exact next_unique (exec_jp nnn s) ran ▸ frameRegs_setPc s _
    · exact next_unique (exec_jpV0 nnn s) ran ▸ frameRegs_setPc s _
    · exact next_unique (exec_seImm x nn s) ran ▸ frameRegs_skipIf s _
    · exact next_unique (exec_sneImm x nn s) ran ▸ frameRegs_skipIf s _
    · exact next_unique (exec_seReg x y n s) ran ▸ frameRegs_skipIf s _
    · exact next_unique (exec_sneReg x y n s) ran ▸ frameRegs_skipIf s _
    · exact next_unique (exec_skp x (by omega)) ran ▸ frameRegs_skipIf s _
    · exact next_unique (exec_sknp x (by omega)) ran ▸ frameRegs_skipIf s _
  · rcases ran with ⟨notEmpty, ran⟩ | ⟨notFull, ran⟩
    · obtain rfl := next_unique (exec_ret x notEmpty) ran
      exact ⟨fun _ _ => rfl, fun _ => rfl, rfl, fun _ _ _ => rfl, ⟨rfl, rfl⟩, ⟨rfl, rfl⟩, ⟨rfl, rfl, rfl⟩, rfl,
        ⟨rfl, rfl, rfl, rfl⟩⟩
    · have room : s.sp.val < 32 := Nat.lt_of_le_of_ne s.sp_le notFull
      obtain rfl := next_unique (exec_call nnn room) ran
      exact ⟨fun _ _ => rfl, fun _ => rfl, rfl, fun k hk ne => Vector.getElem_set_ne room hk ne.symm, ⟨rfl, rfl⟩,
        ⟨rfl, rfl⟩, ⟨rfl, rfl, rfl⟩, rfl, ⟨rfl, rfl, rfl, rfl⟩⟩
  · obtain rfl := next_unique (exec_ret x notEmpty) ran
    rfl

/-- Settles O44: CLS writes the display only, and DRW the display and one flag. -/
theorem frameOfDisplayInstructions : Obligations.FrameOfDisplayInstructions := by
  refine ⟨fun x s t ran => ?_, fun x y n s t inMemory ran => ?_⟩
  · obtain rfl := next_unique (exec_cls x s) ran
    exact ⟨fun _ _ => rfl, fun _ => rfl, rfl, ⟨rfl, rfl⟩, ⟨rfl, rfl⟩, ⟨rfl, rfl, rfl⟩, rfl, ⟨rfl, rfl, rfl, rfl⟩, rfl⟩
  · have range : n.toNat = 0 ∨ s.i.toNat + n.toNat ≤ 4096 := inMemory.symm.imp_left (congrArg BitVec.toNat)
    obtain rfl := next_unique (exec_drw x y range) ran
    exact ⟨s.sameRegsBut_setReg 15 _, fun _ => rfl, rfl, ⟨rfl, rfl⟩, ⟨rfl, rfl⟩, ⟨rfl, rfl, rfl⟩, rfl,
      ⟨rfl, rfl, rfl, rfl⟩, rfl⟩

/-- A store changes no byte outside its range. -/
theorem sameMemoryOutside_store {bs : List Byte} (fits : s.i.toNat + bs.length ≤ 4096) :
    SameMemoryOutside s.i.toNat bs.length s (s.writeBytes s.i.toNat bs) := by
  intro a outside
  rw [readByte_store fits]
  split
  case isTrue low => exact List.getD_eq_default _ _ (by omega)
  case isFalse => rfl

/-- Settles O45: each store is one write of its range, and the load one write of the register file. -/
theorem frameOfStoresAndLoads : Obligations.FrameOfStoresAndLoads := by
  refine ⟨fun x s t fits ran => ?_, fun x s t fits ran => ?_, fun x s t fits ran => ?_⟩
  · obtain rfl := next_unique (exec_ldBVx x fits) ran
    have outside := sameMemoryOutside_store (s := s) (bs := decimalDigits (s.reg x)) (by rw [length_decimalDigits]; omega)
    exact ⟨outside, fun _ _ => rfl, rfl, ⟨rfl, rfl⟩, ⟨rfl, rfl⟩, ⟨rfl, rfl⟩, ⟨rfl, rfl, rfl⟩, rfl, ⟨rfl, rfl, rfl, rfl⟩, rfl⟩
  · obtain rfl := next_unique (exec_ldMemVx fits) ran
    have outside := sameMemoryOutside_store (s := s) (bs := s.regsUpTo x) (by rw [State.length_regsUpTo]; omega)
    rw [State.length_regsUpTo] at outside
    exact ⟨outside, fun _ _ => rfl, rfl, ⟨rfl, rfl⟩, ⟨rfl, rfl⟩, ⟨rfl, rfl⟩, ⟨rfl, rfl, rfl⟩, rfl,
      ⟨rfl, rfl, rfl, rfl⟩, rfl⟩
  · obtain rfl := next_unique (exec_ldVxMem fits) ran
    have only := load_eq s x
    have pc : (s.setRegs 0 (s.readBytes s.i.toNat (x.toNat + 1))).pc = s.pc := by rw [only]
    refine ⟨.of_eq (only.trans (by rw [pc])) fun r above => ?_, pc⟩
    rw [reg_load, if_neg above]

/-- Settles O46, by the equation of each: one write of I (and a flag), one of a timer, or the two ways of the key wait. -/
theorem frameOfIndexTimerAndKeyInstructions : Obligations.FrameOfIndexTimerAndKeyInstructions := by
  refine ⟨fun x nnn s t ran => ?_, fun x s t fits ran => ?_, fun x s t ran => ?_, fun x s t ran => ?_, fun x s t ran => ?_⟩
  · rcases ran with ran | ran <;> obtain rfl := Host.Outcome.next.inj ran <;>
      exact ⟨fun _ _ => rfl, fun _ => rfl, ⟨rfl, rfl⟩, ⟨rfl, rfl⟩, ⟨rfl, rfl⟩, ⟨rfl, rfl, rfl⟩, rfl,
        ⟨rfl, rfl, rfl, rfl⟩, rfl⟩
  · obtain rfl := next_unique (exec_addIVx x fits) ran
    exact ⟨State.sameRegsBut_setReg (s.setI _) 15 _, fun _ => rfl, ⟨rfl, rfl⟩, ⟨rfl, rfl⟩, ⟨rfl, rfl⟩, ⟨rfl, rfl, rfl⟩, rfl,
      ⟨rfl, rfl, rfl, rfl⟩, rfl⟩
  · obtain rfl := next_unique (exec_ldDtVx x s) ran
    exact ⟨fun _ _ => rfl, fun _ => rfl, rfl, ⟨rfl, rfl⟩, rfl, ⟨rfl, rfl⟩, ⟨rfl, rfl, rfl⟩, rfl, ⟨rfl, rfl, rfl, rfl⟩, rfl⟩
  · obtain rfl := next_unique (exec_ldStVx x s) ran
    exact ⟨fun _ _ => rfl, fun _ => rfl, rfl, ⟨rfl, rfl⟩, rfl, ⟨rfl, rfl⟩, ⟨rfl, rfl, rfl⟩, rfl, ⟨rfl, rfl, rfl, rfl⟩, rfl⟩
  · cases release : s.justReleased
    · obtain rfl := next_unique (exec_ldVxK_wait x release) ran
      exact ⟨fun _ _ => rfl, fun _ => rfl, rfl, ⟨rfl, rfl⟩, ⟨rfl, rfl⟩, ⟨rfl, rfl⟩, rfl, rfl, rfl, ⟨rfl, rfl, rfl, rfl⟩, rfl,
        fun _ => ⟨rfl, release⟩⟩
    · obtain rfl := next_unique (exec_ldVxK_take x release) ran
      exact ⟨s.sameRegsBut_setReg x _, fun _ => rfl, rfl, ⟨rfl, rfl⟩, ⟨rfl, rfl⟩, ⟨rfl, rfl⟩, rfl, rfl, rfl,
        ⟨rfl, rfl, rfl, rfl⟩, rfl, fun h => nomatch h⟩

end Sys2Proof.Machine
end

section
/-! SUPPORT. What a Step cannot depend on (10_state.md R43, 60_exceptions.md R250): no instruction reads ST or `dirty`, and
only RND reads the random byte. -/

namespace Sys2Proof.Machine

/-- The state with other values of ST, `dirty` and the random byte. -/
def State.withUnread (s : State) (v : Byte) (b : Bool) (d : Byte) : State := { s with st := v, dirty := b, draw := d }

variable {i : Instr} {s t : State} {v d d' : Byte} {b : Bool}

theorem faultCondition_withUnread (i : Instr) (s : State) (v : Byte) (b : Bool) (d : Byte) :
    faultCondition i (s.withUnread v b d) = faultCondition i s := by
  cases i <;> rfl

theorem skipIf_withUnread (s : State) (v : Byte) (b : Bool) (d : Byte) (c : Bool) :
    (s.withUnread v b d).skipIf c = (s.skipIf c).withUnread v b d := by
  cases c <;> rfl

theorem setRegs_withUnread (s : State) (v : Byte) (b : Bool) (d : Byte) (k : Nat) (bs : List Byte) :
    (s.withUnread v b d).setRegs k bs = (s.setRegs k bs).withUnread v b d := by
  induction bs generalizing s k with
  | nil => rfl
  | cons byte rest ih => exact ih (s.setReg (BitVec.ofNat 4 k) byte) (k + 1)

/-- The two answers of an instruction on states that differ in ST, `dirty` and the random byte differ only there, and where
the states agree on ST or `dirty` so do the answers. -/
def AnswersAlike (i : Instr) (s : State) (v : Byte) (b : Bool) (d : Byte) : Prop :=
  ∃ t v' b', exec i s = .next t ∧ exec i (s.withUnread v b d) = .next (t.withUnread v' b' d) ∧
    (v = s.st → v' = t.st) ∧ (b = s.dirty → b' = t.dirty)

theorem AnswersAlike.skip {c : Bool} (ran : exec i s = .next (s.skipIf c))
    (ran' : exec i (s.withUnread v b d) = .next ((s.withUnread v b d).skipIf c)) : AnswersAlike i s v b d := by
  rw [skipIf_withUnread] at ran'
  exact ⟨_, v, b, ran, ran', fun h => h.trans (s.skipIf_st c).symm, fun h => h.trans (s.skipIf_dirty c).symm⟩

theorem exec_withUnread (i : Instr) (s : State) (v : Byte) (b : Bool) (d : Byte)
    (read : ∀ x nn, i = .rnd x nn → d = s.draw) : AnswersAlike i s v b d := by
  cases condition : faultCondition i s with
  | some c =>
    exact ⟨_, v, b, exec_of_faultCondition condition,
      exec_of_faultCondition ((faultCondition_withUnread i s v b d).trans condition), id, id⟩
  | none =>
    have condition' := (faultCondition_withUnread i s v b d).trans condition
    cases i
    case seImm | sneImm | seReg | sneReg => exact .skip rfl rfl
    case skp x => exact .skip (exec_skp x (skp_key condition)) (exec_skp x (skp_key condition'))
    case sknp x => exact .skip (exec_sknp x (sknp_key condition)) (exec_sknp x (sknp_key condition'))
    case call nnn => exact ⟨_, v, b, exec_call nnn (call_notFull condition), exec_call nnn (call_notFull condition'), id, id⟩
    case ret x => exact ⟨_, v, b, exec_ret x (ret_notEmpty condition), exec_ret x (ret_notEmpty condition'), id, id⟩
    case addIVx x => exact ⟨_, v, b, exec_addIVx x (addIVx_fits condition), exec_addIVx x (addIVx_fits condition'), id, id⟩
    case ldBVx x =>
      exact ⟨_, v, b, exec_ldBVx x (ldBVx_inMemory condition), exec_ldBVx x (ldBVx_inMemory condition'), id, id⟩
    case ldMemVx x =>
      exact ⟨_, v, b, exec_ldMemVx (ldMemVx_inMemory condition), exec_ldMemVx (ldMemVx_inMemory condition'), id, id⟩
    case ldVxMem x =>
      have ran := exec_ldVxMem (ldVxMem_inMemory condition')
      rw [setRegs_withUnread] at ran
      have only := load_eq s x
      exact ⟨_, v, b, exec_ldVxMem (ldVxMem_inMemory condition), ran, fun h => by rw [only, h], fun h => by rw [only, h]⟩
    case drw x y n =>
      exact ⟨_, v, true, exec_drw x y (drw_inMemory condition), exec_drw x y (drw_inMemory condition'), id, fun _ => rfl⟩
    case cls x => exact ⟨_, v, true, rfl, rfl, id, fun _ => rfl⟩
    case ldStVx x => exact ⟨_, s.reg x, b, rfl, rfl, fun _ => rfl, id⟩
    case rnd x nn =>
      obtain rfl := read x nn rfl
      exact ⟨_, v, b, rfl, rfl, id, id⟩
    case ldVxK x =>
      cases release : s.justReleased
      · exact ⟨_, v, b, exec_ldVxK_wait x release, exec_ldVxK_wait x release, id, id⟩
      · exact ⟨_, v, b, exec_ldVxK_take x release, exec_ldVxK_take x release, id, id⟩
    all_goals exact ⟨_, v, b, rfl, rfl, id, id⟩

/-- A Step of a word of another class than C, or with the same byte, answers alike from states that differ in ST and
`dirty`. -/
theorem stepDraw_withUnread (v : Byte) (b : Bool) (live : s.fault = none) (read : fieldClass s.wordAtPc = 0xC → d' = d) :
    ∃ t v' b', stepDraw d s = .next t ∧ stepDraw d' (s.withUnread v b s.draw) = .next (t.withUnread v' b' d') ∧
      (v = s.st → v' = t.st) ∧ (b = s.dirty → b' = t.dirty) := by
  by_cases past : 4096 ≤ s.pc.toNat + 1
  · exact ⟨_, v, b, stepDraw_past d live past, stepDraw_past d' live past, id, id⟩
  have hpc : s.pc.toNat + 1 < 4096 := Nat.lt_of_not_le past
  cases decoded : decodeWord s.wordAtPc with
  | error e => exact ⟨_, v, b, stepDraw_miss d live hpc decoded, stepDraw_miss d' live hpc decoded, id, id⟩
  | ok i =>
    have readHere : ∀ x nn, i = .rnd x nn → d' = d := by
      rintro x nn rfl
      refine read ?_
      rw [← encode_of_decodeWord decoded]
      exact fieldClass_wordXNN 0xC x nn
    obtain ⟨t, v', b', ran, ran', st, dirty⟩ := exec_withUnread i (s.atExec d) v b d' readHere
    exact ⟨t, v', b', (stepDraw_decoded d live hpc decoded).trans ran,
      (stepDraw_decoded (s := s.withUnread v b s.draw) d' live hpc decoded).trans ran', st, dirty⟩

theorem decodeWord_of_classC {w : Word} (h : fieldClass w = 0xC) : decodeWord w = .ok (.rnd (fieldX w) (fieldNN w)) := by
  rw [decodeWord, h]
  rfl

/-- Settles O51: with ST and `dirty` as they are, the Steps for two bytes differ only in the byte, unless the word is
RND's. -/
theorem onlyRandomReadsTheDraw : Obligations.OnlyRandomReadsTheDraw := by
  refine ⟨fun s d d' live other => ?_, fun s d live hpc random => ?_⟩
  · obtain ⟨t, v', b', step, step', st, dirty⟩ := stepDraw_withUnread (d := d) (d' := d') s.st s.dirty live (absurd · other)
    rw [st rfl, dirty rfl] at step'
    exact ⟨t, step, step'⟩
  · exact ⟨_, stepDraw_decoded d live hpc (decodeWord_of_classC random), State.reg_setReg_self _ _ _⟩

/-- Settles O52: the two Steps take the same byte, so their answers differ in ST and `dirty` only. -/
theorem soundAndDirtyAreNotObserved : Obligations.SoundAndDirtyAreNotObserved := by
  intro s t v b ran
  by_cases live : s.fault = none
  · obtain ⟨t', v', b', step, step', -⟩ := stepDraw_withUnread (d := Config.draw s.steps) v b live fun _ => rfl
    obtain rfl := next_unique step ran
    obtain ⟨draw, -⟩ := own_of_stepDraw live step
    refine ⟨v', b', step'.trans ?_⟩
    rw [State.withUnread, ← draw]
  · obtain rfl := next_unique (stepDraw_faulted s _ live) ran
    exact ⟨v, b, stepDraw_faulted _ _ live⟩

end Sys2Proof.Machine
end
